-- ==== Sys2Proof/Word.lean ====
section
/-! DEFINITION. The word types of the block: bus words, bytes, code strings, arena indices, symbol tables. -/

namespace Sys2Proof

/-- A 32-bit bus word: every register and every HOST access (spec 10_state R32, 20_memory R81). -/
abbrev Word := BitVec 32

/-- An 8-bit unit: a buffer byte, and a symbol 0..255 (00_scope R9, R12, R16). -/
abbrev Byte := BitVec 8

/-- A bit string; the head of the list is bit 0, the first bit produced and consumed (00_scope R11). -/
abbrev Bits := List Bool

/-- An arena index 0..510 (MAX_NODES = 511, 00_scope R9). -/
abbrev NodeIdx := Fin 511

/-- An array with one entry per symbol 0..255 (NSYM = 256, 00_scope R9). -/
abbrev Table (α : Type) := Vector α 256

end Sys2Proof
end

