-- ==== Sys2Proof/Config.lean ====
section
/-! DEFINITION. What an implementation of the block fixes (00_scope R9), and the free values: the values the spec
calls "unspecified", each an opaque constant applied to a draw number (R14, 93_implementation_defined U1 to U7). -/

namespace Sys2Proof

/-- The named parameters IN_CAP, OUT_CAP, PAY_CAP (00_scope R9). They are arguments of the model: the state holds
them (as IN_CAP_REG, OUT_CAP_REG, PAY_CAP_REG do, 10_state R45), so a claim about every state is a claim about every
choice of them. -/
structure Params where
  inCap : Nat
  outCap : Nat
  payCap : Nat
  deriving DecidableEq, Repr

/-- The default parameters of 00_scope R9. -/
def Params.default : Params := { inCap := 65536, outCap := 1048576, payCap := 1048576 }

namespace Config

/-- INT32_MAX (00_scope R9). -/
def int32Max : Nat := 0x7FFFFFFF

/-- ID is hard-wired (10_state R33). -/
def idValue : Word := 0x48554646#32

/-- VERSION is hard-wired (10_state R33). -/
def versionValue : Word := 0x00000001#32

/-- The end-of-header marker, the ten ASCII bytes of "HEADER_END" (00_scope R9, 40_datapath R170). -/
def marker : List Byte :=
  [0x48#8, 0x45#8, 0x41#8, 0x44#8, 0x45#8, 0x52#8, 0x5F#8, 0x45#8, 0x4E#8, 0x44#8]

/-- HEAP_SLOTS (00_scope R9). -/
def heapSlots : Nat := 256

/-- MAX_CODE_LEN_HW, the longest code the code tables can store (00_scope R9). -/
def maxCodeLenHw : Nat := 255

/-- BASE, the platform's bus address of offset 0 (00_scope R9, 20_memory R80): the platform's choice, so a constant
nothing is known of. -/
opaque base : Word

/-- FREE VALUE: byte `i` of the buffer contents drawn as number `seed` (U3, U4, U5). -/
opaque freeByte : (seed i : Nat) → Byte

/-- FREE VALUE: word `i` of draw number `seed` (U1, U6). -/
opaque freeWord : (seed i : Nat) → Word

/-- FREE VALUE: what PENDING holds after the reset with draw number `seed` (U2). -/
opaque freePending : (seed : Nat) → Word

/-- FREE VALUE: slot `i` of HEAP in draw number `seed` (U7). -/
opaque freeSlot : (seed i : Nat) → BitVec 9

/-- FREE VALUE: HSIZE in draw number `seed` (U7). -/
opaque freeHeapSize : (seed : Nat) → Fin 257

end Config
end Sys2Proof
end

