-- ==== Sys2Proof/Syntax.lean ====
section
/-! DEFINITION. The instruction set: the eleven command words of the opcode table (30_encoding R112). -/

namespace Sys2Proof

/-- One constructor per row of the opcode table. No command has an operand field (30_encoding R111): what each reads
and writes is fixed state (R115). -/
inductive Instr where
  | nop
  | clear
  | analyze
  | buildTree
  | genCodes
  | pack
  | serialize
  | encode
  | parse
  | walk
  | decode
  deriving DecidableEq, Repr

end Sys2Proof
end

