-- ==== Sys2Proof/WellFormed.lean ====
section
/-! DEFINITION. What a well-formed instruction, command word and parameter choice is. -/

namespace Sys2Proof

/-- A command carries no operand (30_encoding R111), so there is nothing in one that could be ill-formed. -/
def Instr.wf : Instr → Bool
  | .nop => true
  | .clear => true
  | .analyze => true
  | .buildTree => true
  | .genCodes => true
  | .pack => true
  | .serialize => true
  | .encode => true
  | .parse => true
  | .walk => true
  | .decode => true

/-- The reserved field RSVD = [31:8] of a command word is zero (30_encoding R110). -/
def rsvdZero (w : Word) : Bool := w.extractLsb' 8 24 == 0#24

/-- The OPC values of the eleven commands (30_encoding R112). -/
def opcodes : List Byte :=
  [0x00#8, 0x01#8, 0x10#8, 0x11#8, 0x12#8, 0x13#8, 0x14#8, 0x1F#8, 0x20#8, 0x21#8, 0x2F#8]

/-- The field OPC = [7:0] of a command word is one of the eleven listed values (30_encoding R112). -/
def opcListed (w : Word) : Bool := opcodes.contains (w.extractLsb' 0 8)

/-- A legal command word: RSVD is zero and OPC is listed (30_encoding R112, R114). -/
def wordWf (w : Word) : Bool := rsvdZero w && opcListed w

/-- One capacity: a multiple of 4, at least `low`, at most 2^20 (00_scope R9). -/
def capWf (low cap : Nat) : Bool := cap % 4 == 0 && decide (low ≤ cap) && decide (cap ≤ 1048576)

/-- The constraints on the named parameters (00_scope R9). -/
def Params.wf (p : Params) : Bool := capWf 4 p.inCap && capWf 24 p.outCap && capWf 4 p.payCap

end Sys2Proof
end

