-- ==== Sys2Proof/Decode.lean ====
section
/-! DEFINITION. The decoder of command words and the encoder, both from the opcode map (30_encoding R112). -/

namespace Sys2Proof

/-- Why a command word is illegal (30_encoding R114). Either way its execution raises ILLEGAL_COMMAND with the whole
word as detail (43_control R232): the reasons differ in name only. -/
inductive IllegalWord where
  /-- RSVD = [31:8] is not zero. -/
  | reservedBitsSet
  /-- RSVD is zero and OPC is none of the eleven listed values. -/
  | unknownOpcode
  deriving DecidableEq, Repr

/-- Decoding matches all 32 bits against the table (30_encoding R112); a word that matches no row is illegal (R114). -/
def decode (w : Word) : Except IllegalWord Instr :=
  match w.toNat with
  | 0x00000000 => .ok .nop
  | 0x00000001 => .ok .clear
  | 0x00000010 => .ok .analyze
  | 0x00000011 => .ok .buildTree
  | 0x00000012 => .ok .genCodes
  | 0x00000013 => .ok .pack
  | 0x00000014 => .ok .serialize
  | 0x0000001F => .ok .encode
  | 0x00000020 => .ok .parse
  | 0x00000021 => .ok .walk
  | 0x0000002F => .ok .decode
  | _ => if rsvdZero w then .error .unknownOpcode else .error .reservedBitsSet

/-- The command word of each instruction (30_encoding R112). -/
def encode : Instr → Word
  | .nop => 0x00000000#32
  | .clear => 0x00000001#32
  | .analyze => 0x00000010#32
  | .buildTree => 0x00000011#32
  | .genCodes => 0x00000012#32
  | .pack => 0x00000013#32
  | .serialize => 0x00000014#32
  | .encode => 0x0000001F#32
  | .parse => 0x00000020#32
  | .walk => 0x00000021#32
  | .decode => 0x0000002F#32

/-- The command word whose `nbits` lowest bits are those of `w` and whose other bits are 0. -/
def tableWord (nbits w : Nat) : Word := BitVec.ofNat 32 (w % 2 ^ nbits)

/-- What the decoder reads from the table's bits: a command is exactly one 32-bit word (30_encoding R110), so bits
above bit 31 make it no command. -/
def decodeTableWord (nbits w : Nat) : Option Instr :=
  if w % 2 ^ nbits < 2 ^ 32 then (decode (tableWord nbits w)).toOption else none

end Sys2Proof
end

