-- ==== Sys2Proof/Machine/State.lean ====
section
/-! DEFINITION. The state of the block (10_state R30 to R57) with the HOST's program and the schedule, the reasons a
step can stop, and the state after reset (70_reset R350). -/

namespace Sys2Proof.Machine

/-- A buffer's contents: the bytes written so far, by rising index, and the number of the draw that its other bytes
come from. An index that is not listed holds no definite byte; it is read as the free value
`Config.freeByte seed index` (notes/assumptions/2.md). -/
structure Memory where
  seed : Nat
  cells : List Host.Cell
  deriving DecidableEq, Repr

/-- The sequencer's phase (10_state R31). -/
inductive Phase where
  | idle
  | busy
  deriving DecidableEq, Repr

/-- The error codes 0..8 of STATUS.ERR (60_exceptions R300). Codes 9..255 are never produced (U16). -/
inductive ErrCode where
  | none
  | emptyInput
  | emptyQueue
  | malformedHeader
  | truncatedStream
  | unknownSymbol
  | sequence
  | capacity
  | illegalCommand
  deriving DecidableEq, Repr

/-- One entry of the tree arena NODE (10_state R50): `leaf symbol frequency` or
`internal frequency left right`. -/
inductive Node where
  | leaf (sym : Byte) (freq : Word)
  | internal (freq : Word) (left right : NodeIdx)
  deriving DecidableEq, Repr

/-- The tree arena, entries 0..510 (10_state R50). -/
abbrev Arena := Vector Node 511

/-- The hidden heap array HEAP with its size HSIZE (10_state R54). -/
structure HeapArray where
  slots : Vector (BitVec 9) 256
  size : Fin 257
  deriving DecidableEq, Repr

/-- One operation of a HOST program (30_encoding R116, R117): a bus write, a bus read, or `wait`, the polling loop on
STATUS.BUSY. Offsets are relative to BASE. -/
inductive HostOp where
  | wr (off val : Word)
  | rd (off : Word)
  | wait
  deriving DecidableEq, Repr

/-- Who moves: the HOST, the CORE, or the platform asserting RESET (00_scope R7, 70_reset R350). -/
inductive Turn where
  | host
  | core
  | reset
  deriving DecidableEq, Repr

/-- The whole state. The first group is the block's (10_state R30 to R54); the last four fields are the model's own
(notes/assumptions/1.md and 6.md). -/
structure State where
  /-- IN_CAP_REG, OUT_CAP_REG, PAY_CAP_REG: hard-wired to the parameters (R45). -/
  params : Params
  /-- PHASE; STATUS.BUSY reads 1 iff it is BUSY (R31). -/
  phase : Phase
  /-- PENDING, meaningful only while BUSY (R31). -/
  pending : Word
  /-- STATUS.DONE (R37). -/
  done : Bool
  /-- STATUS.WDROP (R37). -/
  wdrop : Bool
  /-- STATUS.TREE_VALID (R37, R47). -/
  treeValid : Bool
  /-- STATUS.CODES_VALID (R37, R47). -/
  codesValid : Bool
  /-- STATUS.PAYLOAD_VALID (R37, R47). -/
  payloadValid : Bool
  /-- STATUS.ERR (R37); STATUS.ERROR reads 1 iff it is not NONE. -/
  err : ErrCode
  /-- IRQ_EN.DONE_IE (R39). -/
  doneIe : Bool
  /-- IN_LEN (R40). -/
  inLen : Word
  /-- OUT_LEN (R41). -/
  outLen : Word
  /-- PAY_LEN (R42). -/
  payLen : Word
  /-- PAD (R42). -/
  pad : Word
  /-- BIT_LEN (R42). -/
  bitLen : Word
  /-- SYM_COUNT (R43). -/
  symCount : Word
  /-- TOTAL (R43). -/
  total : Word
  /-- TREE_ROOT (R43). -/
  treeRoot : NodeIdx
  /-- MAX_CODE_LEN (R43). -/
  maxCodeLen : Word
  /-- ERR_INFO (R44). -/
  errInfo : Word
  /-- IN_BUF (R48). -/
  inBuf : Memory
  /-- FREQ (R49). -/
  freq : Table Word
  /-- NODE (R50). -/
  node : Arena
  /-- CODE_LEN (R51). -/
  codeLen : Table (BitVec 8)
  /-- CODE_BITS (R51); bit `j` of an entry is code bit `j`. -/
  codeBits : Table (BitVec 256)
  /-- PAYLOAD (R52). -/
  payload : Memory
  /-- OUT_BUF (R53). -/
  outBuf : Memory
  /-- HEAP and HSIZE (R54). -/
  heap : HeapArray
  /-- The model's own: the number of the next free draw. -/
  draws : Nat
  /-- The model's own: the HOST's remaining operations, in program order (20_memory R97). -/
  prog : List HostOp
  /-- The model's own: the turns already fixed; when it is empty CORE moves if BUSY, else the HOST. -/
  sched : List Turn
  /-- The model's own: the data of the HOST's last bus read. -/
  rdata : Word
  deriving DecidableEq, Repr

/-- Why the machine stops. No error of the block is one: those are completion statuses (60_exceptions R305). -/
inductive Fault where
  /-- Raised by `Heap.pop` on an empty queue, which no command does (60_exceptions R301: a model that reaches it
  "should record a fault, not produce code 2"). Safe. -/
  | emptyQueue
  /-- Raised by GEN_CODES when a path from TREE_ROOT is longer than the 255 bits a code table entry stores (10_state
  R51), which happens only in an arena that holds no tree (40_datapath R152): no run reaches it. Safe. -/
  | codeTooLong
  deriving DecidableEq, Repr

/-- Why an instruction is refused. -/
inductive Refusal where
  /-- Answered by `exec` for an instruction that has no meaning yet. Safe. -/
  | notModelled (mnemonic : String)
  deriving DecidableEq, Repr

/-- A buffer nothing has been written to: all its bytes come from draw number `seed`. -/
def Memory.drawn (seed : Nat) : Memory := { seed := seed, cells := [] }

/-- HEAP and HSIZE with unspecified contents (U7). -/
@[irreducible] def HeapArray.drawn (seed : Nat) : HeapArray :=
  { slots := Vector.ofFn fun i => Config.freeSlot seed i.val, size := Config.freeHeapSize seed }

/-- An unused arena entry: both words 0 (10_state R50). -/
def Node.unused : Node := .leaf 0#8 0#32

/-- The table with the same entry for every symbol. -/
def Table.const {α : Type} (v : α) : Table α := Vector.replicate 256 v

/-- The arena of unused entries. -/
def Arena.unused : Arena := Vector.replicate 511 Node.unused

/-- The block after RESET with parameters `p`, its unspecified contents drawn from number `d` on
(70_reset R350, 10_state R57). -/
def State.resetWith (p : Params) (d : Nat) : State where
  params := p
  phase := .idle
  pending := Config.freePending d
  done := false
  wdrop := false
  treeValid := false
  codesValid := false
  payloadValid := false
  err := .none
  doneIe := false
  inLen := 0#32
  outLen := 0#32
  payLen := 0#32
  pad := 0#32
  bitLen := 0#32
  symCount := 0#32
  total := 0#32
  treeRoot := 0
  maxCodeLen := 0#32
  errInfo := 0#32
  inBuf := Memory.drawn d
  freq := Table.const 0#32
  node := Arena.unused
  codeLen := Table.const 0#8
  codeBits := Table.const 0#256
  payload := Memory.drawn (d + 1)
  outBuf := Memory.drawn (d + 2)
  heap := HeapArray.drawn d
  draws := d + 3
  prog := []
  sched := []
  rdata := 0#32

/-- The machine right after reset, with the default parameters of 00_scope R9. -/
def State.reset : State := State.resetWith Params.default 0

end Sys2Proof.Machine
end

