-- ==== Sys2Proof/Machine/Ops.lean ====
section
/-! DEFINITION. The shared operations: the buffers' bytes, symbol tables, how a command ends (raising an error and
completing), and how a completion is acknowledged. -/

namespace Sys2Proof.Machine

/-! ### Buffers (10_state R48, R52, R53) -/

/-- The byte listed at index `i`, if there is one. -/
def lookupCell : List Host.Cell → Nat → Option Byte
  | [], _ => none
  | (a, v) :: cs, i => if a = i then some v else lookupCell cs i

/-- The list with byte `v` at index `i`, kept in rising order. -/
def insertCell : List Host.Cell → Nat → Byte → List Host.Cell
  | [], i, v => [(i, v)]
  | (a, w) :: cs, i, v =>
    if i < a then (i, v) :: (a, w) :: cs
    else if i = a then (i, v) :: cs
    else (a, w) :: insertCell cs i v

/-- Byte `i` of a buffer; a byte never written since the last draw is a free value (U3, U4, U5). -/
def Memory.read (m : Memory) (i : Nat) : Byte :=
  (lookupCell m.cells i).getD (Config.freeByte m.seed i)

/-- The buffer with byte `i` set to `v`. -/
def Memory.write (m : Memory) (i : Nat) (v : Byte) : Memory :=
  { m with cells := insertCell m.cells i v }

/-- The `n` bytes from index `i` on, of a buffer whose listed cells have index `i` or more: one pass over the list. -/
def runFrom (seed : Nat) : Nat → Nat → List Host.Cell → List Byte
  | 0, _, _ => []
  | n + 1, i, [] => Config.freeByte seed i :: runFrom seed n (i + 1) []
  | n + 1, i, (a, v) :: cs =>
    if a = i then v :: runFrom seed n (i + 1) cs
    else Config.freeByte seed i :: runFrom seed n (i + 1) ((a, v) :: cs)

/-- `BUF[0..n)` (00_scope R12). On a well-formed buffer this is byte after byte what `Memory.read` gives. -/
def Memory.bytes (m : Memory) (n : Nat) : List Byte := runFrom m.seed n 0 m.cells

/-- The bytes as cells at indices `i`, `i + 1`, … -/
def cellsFrom : Nat → List Byte → List Host.Cell
  | _, [] => []
  | i, b :: bs => (i, b) :: cellsFrom (i + 1) bs

/-- A buffer that holds `bs` at its start and unspecified bytes, drawn as number `seed`, after it (R52, R53). -/
def Memory.filled (seed : Nat) (bs : List Byte) : Memory := { seed := seed, cells := cellsFrom 0 bs }

/-- The canonical form: indices strictly rising. -/
def rising : List Host.Cell → Bool
  | [] => true
  | [_] => true
  | c :: c' :: cs => decide (c.1 < c'.1) && rising (c' :: cs)

/-- A buffer is well formed. An unlisted index reads as no definite byte, so no entry equals it. -/
def Memory.wf (m : Memory) : Bool := rising m.cells

/-- Every listed index lies inside the capacity. -/
def Memory.within (m : Memory) (cap : Nat) : Bool := m.cells.all fun c => decide (c.1 < cap)

/-! ### Symbol tables and the arena -/

/-- The entry of symbol `s`. -/
def Table.at {α : Type} (t : Table α) (s : Byte) : α := t[s.toNat]'s.isLt

/-- The table with the entry of symbol `s` replaced. -/
def Table.put {α : Type} (t : Table α) (s : Byte) (v : α) : Table α := t.set s.toNat v s.isLt

/-- The symbols 0..255 in ascending order (00_scope R9, R16). -/
def allSymbols : List Byte := (List.range 256).map (BitVec.ofNat 8)

/-- The table whose entry of symbol `s` is `f s`. -/
def Table.tabulate {α : Type} (f : Byte → α) : Table α :=
  ⟨⟨allSymbols.map f⟩, by simp [allSymbols]⟩

/-- FREQ[s] as a number. -/
def freqOf (F : Table Word) (s : Byte) : Nat := (Table.at F s).toNat

/-- The present symbols, ascending: those with FREQ[s] ≠ 0 (00_scope R16, 10_state R49). -/
def present (F : Table Word) : List Byte :=
  ((allSymbols.zip F.toList).filter fun p => p.2 != 0#32).map Prod.fst

/-- A number as a register value. Every value written fits (00_scope R13). -/
def word (n : Nat) : Word := BitVec.ofNat 32 n

/-! ### How a command ends -/

/-- What a command's pseudocode does up to its completion: it runs to its end, or it raises an error with a detail
after the writes of its error path (00_scope R14), or it meets a fault of the model. -/
inductive Effect where
  | done (s : State)
  | raised (s : State) (e : ErrCode) (info : Word)
  | fault (f : Fault)
  deriving DecidableEq, Repr

/-- One body after another; a `raise` in the first ends the sequence and keeps the first's effects
(41_encode R185, 42_decode R212). -/
def Effect.andThen : Effect → (State → Effect) → Effect
  | .done s, k => k s
  | .raised s e v, _ => .raised s e v
  | .fault f, _ => .fault f

/-- RAISING AN ERROR: STATUS.ERR and ERR_INFO take its code and detail (60_exceptions R305). No state is saved, no mode
changes and no vector is taken (R306). -/
def State.raise (s : State) (e : ErrCode) (info : Word) : State := { s with err := e, errInfo := info }

/-- A successful command reports NONE and detail 0 (30_encoding R115, 60_exceptions R300, 10_state R44). -/
def State.succeed (s : State) : State := { s with err := .none, errInfo := 0#32 }

/-- Completion: PHASE becomes IDLE and DONE is set (10_state R36). -/
def State.complete (s : State) : State := { s with phase := .idle, done := true }

/-- How a command's effect becomes the outcome of its atomic step (10_state R36, 60_exceptions R305). -/
def Effect.outcome : Effect → Host.Outcome State Fault Refusal
  | .done s => .next s.succeed.complete
  | .raised s e v => .next (s.raise e v).complete
  | .fault f => .fault f

/-- ACKNOWLEDGEMENT, the counterpart of completion: the effect of a HOST write of `v` to STATUS, in either PHASE. It
clears DONE and WDROP where `v` has a 1 and touches nothing else (10_state R38, 60_exceptions R307). -/
def State.acknowledge (s : State) (v : Word) : State :=
  { s with done := s.done && !v.getLsbD 1, wdrop := s.wdrop && !v.getLsbD 3 }

/-- Command issue: a HOST write of `c` to CMD (10_state R35). While BUSY the write is dropped and WDROP is set. -/
def State.issue (s : State) (c : Word) : State :=
  match s.phase with
  | .busy => { s with wdrop := true }
  | .idle =>
    { s with pending := c, phase := .busy, done := false, err := .none, errInfo := 0#32 }

/-- RESET: the block's state takes its reset values; the HOST's program, the turns and the HOST's last read data are
not the block's and stay (70_reset R350). -/
def State.resetEvent (s : State) : State :=
  { State.resetWith s.params s.draws with prog := s.prog, sched := s.sched, rdata := s.rdata }

end Sys2Proof.Machine
end

