-- ==== Sys2Proof/Machine/Flags.lean ====
section
/-! DEFINITION. The flags: the STATUS word and its fields, the valid bits and what invalidates them, the interrupt. -/

namespace Sys2Proof.Machine

/-- The 8-bit code of an error in STATUS.ERR (60_exceptions R300). -/
def ErrCode.code : ErrCode → BitVec 8
  | .none => 0#8
  | .emptyInput => 1#8
  | .emptyQueue => 2#8
  | .malformedHeader => 3#8
  | .truncatedStream => 4#8
  | .unknownSymbol => 5#8
  | .sequence => 6#8
  | .capacity => 7#8
  | .illegalCommand => 8#8

/-- STATUS.BUSY (10_state R31, R37). -/
def State.busy (s : State) : Bool := s.phase == .busy

/-- STATUS.ERROR (10_state R37). -/
def State.error (s : State) : Bool := s.err != .none

/-- The STATUS register as the HOST reads it, from bit 31 down to bit 0 (10_state R37). -/
def State.status (s : State) : Word :=
  0#16 ++ s.err.code ++
    (0#1 ++ BitVec.ofBool s.payloadValid ++ BitVec.ofBool s.codesValid ++ BitVec.ofBool s.treeValid ++
      BitVec.ofBool s.wdrop ++ BitVec.ofBool s.error ++ BitVec.ofBool s.done ++ BitVec.ofBool s.busy)

/-- The IRQ_EN register as the HOST reads it (10_state R39). -/
def State.irqEn (s : State) : Word := 0#31 ++ BitVec.ofBool s.doneIe

/-- A HOST write of `v` to IRQ_EN, in either PHASE: bit 0 is DONE_IE (10_state R39). -/
def State.writeIrqEn (s : State) (v : Word) : State := { s with doneIe := v.getLsbD 0 }

/-- The interrupt output, a level (60_exceptions R320). -/
def State.irq (s : State) : Bool := s.done && s.doneIe

/-- The STATUS bit of TREE_VALID as a SEQUENCE detail (60_exceptions R300). -/
def treeBit : Word := 0x10#32

/-- The STATUS bit of CODES_VALID as a SEQUENCE detail (60_exceptions R300). -/
def codesBit : Word := 0x20#32

/-- The STATUS bit of PAYLOAD_VALID as a SEQUENCE detail (60_exceptions R300). -/
def payloadBit : Word := 0x40#32

/-- inv-codes (10_state R47). -/
def State.invCodes (s : State) : State := { s with codesValid := false, maxCodeLen := 0#32 }

/-- inv-tree: TREE_VALID and TREE_ROOT, then inv-codes (10_state R47). -/
def State.invTree (s : State) : State := { s with treeValid := false, treeRoot := 0 }.invCodes

/-- inv-pay (10_state R47). -/
def State.invPay (s : State) : State :=
  { s with payloadValid := false, payLen := 0#32, pad := 0#32, bitLen := 0#32 }

/-- inv-all (10_state R47): the three valid bits and the registers tied to them. -/
def State.invAll (s : State) : State := s.invTree.invPay

end Sys2Proof.Machine
end

