-- ==== Sys2Proof/Machine/Operands.lean ====
section
/-! DEFINITION. The implicit operands of the commands (30_encoding R115) and the integer encodings of the blob
(00_scope R13). -/

namespace Sys2Proof.Machine

/-- The input `IN_BUF[0..IN_LEN)`: the bytes to encode, or the blob to decode (10_state R40, R48). -/
def State.input (s : State) : List Byte := s.inBuf.bytes s.inLen.toNat

/-- The packed payload `PAYLOAD[0..PAY_LEN)` (10_state R52). -/
def State.packed (s : State) : List Byte := s.payload.bytes s.payLen.toNat

/-- The last output `OUT_BUF[0..OUT_LEN)` (10_state R53). -/
def State.output (s : State) : List Byte := s.outBuf.bytes s.outLen.toNat

/-- PAYLOAD becomes `bs` followed by unspecified bytes (10_state R52, U4). -/
def State.setPayload (s : State) (bs : List Byte) : State :=
  { s with payload := Memory.filled s.draws bs, draws := s.draws + 1 }

/-- PAYLOAD's contents become unspecified (60_exceptions R305, U4). -/
def State.losePayload (s : State) : State := s.setPayload []

/-- OUT_BUF becomes `bs` followed by unspecified bytes, and OUT_LEN their number (10_state R41, R53, U5). -/
def State.setOutput (s : State) (bs : List Byte) : State :=
  { s with outBuf := Memory.filled s.draws bs, outLen := word bs.length, draws := s.draws + 1 }

/-- OUT_BUF's contents become unspecified and OUT_LEN 0 (41_encode R184, 42_decode R211, U5). -/
def State.loseOutput (s : State) : State := s.setOutput []

/-- FREQ's contents become unspecified: 256 free words (42_decode R210, U6). -/
def State.loseFreq (s : State) : State :=
  { s with freq := Table.tabulate fun b => Config.freeWord s.draws b.toNat, draws := s.draws + 1 }

/-- HEAP's contents become unspecified (41_encode R181, U7). -/
def State.loseHeap (s : State) : State :=
  { s with heap := HeapArray.drawn s.draws, draws := s.draws + 1 }

/-- `le32(v)`: the four bytes of a 32-bit value, least significant first (00_scope R13). -/
def le32 (v : Nat) : List Byte :=
  [BitVec.ofNat 8 v, BitVec.ofNat 8 (v / 256), BitVec.ofNat 8 (v / 65536), BitVec.ofNat 8 (v / 16777216)]

/-- `rdle32` of four bytes: their unsigned little-endian value (00_scope R13). -/
def rdle32 (b0 b1 b2 b3 : Byte) : Nat :=
  b0.toNat + 256 * b1.toNat + 65536 * b2.toNat + 16777216 * b3.toNat

/-- `sint32(u)`: the two's complement reading of an unsigned 32-bit number (00_scope R13). -/
def sint32 (u : Nat) : Int := if u < 2 ^ 31 then (u : Int) else (u : Int) - 2 ^ 32

end Sys2Proof.Machine
end

