-- ==== Sys2Proof/Machine/Heap.lean ====
section
/-! DEFINITION. The priority queue of the tree builder: a binary min-heap of arena indices (40_datapath R131 to R136).
The list is `HEAP[0..HSIZE)`; HSIZE is its length. -/

namespace Sys2Proof.Machine

/-- The frequency field of an entry (00_scope R17, 10_state R50). -/
def Node.freq : Node → Nat
  | .leaf _ f => f.toNat
  | .internal f _ _ => f.toNat

/-- `key(j)`, the pair (NODE[j].freq, j) of an arena entry (00_scope R16, 40_datapath R131). A queue position is held as
the key of its index HEAP[p]: an entry's frequency does not change while its index is queued. -/
structure Key where
  freq : Nat
  idx : NodeIdx
  deriving DecidableEq, Repr

/-- `a <key b`: by frequency, then by arena index (40_datapath R131). -/
def keyLt (a b : Key) : Bool :=
  Nat.blt a.freq b.freq || (Nat.beq a.freq b.freq && Nat.blt a.idx.val b.idx.val)

/-- The queue's contents in heap layout (40_datapath R132). -/
abbrev Heap := List Key

/-- `p < HSIZE and HEAP[p] <key HEAP[q]`, for a position `q` inside the heap. -/
def Heap.less (h : Heap) (p q : Nat) : Bool :=
  match h[p]?, h[q]? with
  | some a, some b => keyLt a b
  | _, _ => false

/-- `swap HEAP[p], HEAP[q]`. -/
def Heap.swap (h : Heap) (p q : Nat) : Heap :=
  match h[p]?, h[q]? with
  | some a, some b => (h.set p b).set q a
  | _, _ => h

/-- The `m` of one round of `SiftDown`: of position `i` and its children, the one with the least key
(40_datapath R133). -/
def Heap.leastAt (h : Heap) (i : Nat) : Nat :=
  let m := if Heap.less h (2 * i + 1) i then 2 * i + 1 else i
  if Heap.less h (2 * i + 2) m then 2 * i + 2 else m

/-- `SiftDown(i)` (40_datapath R133). Each round moves to a child, so HSIZE rounds are enough. -/
def Heap.siftDown : Nat → Heap → Nat → Heap
  | 0, h, _ => h
  | rounds + 1, h, i =>
    if Heap.leastAt h i = i then h
    else Heap.siftDown rounds (Heap.swap h i (Heap.leastAt h i)) (Heap.leastAt h i)

/-- `SiftUp(i)` (40_datapath R133). Each round moves to the parent, so `i` rounds are enough. -/
def Heap.siftUp : Nat → Heap → Nat → Heap
  | 0, h, _ => h
  | rounds + 1, h, i =>
    if decide (0 < i) && Heap.less h i ((i - 1) / 2) then
      Heap.siftUp rounds (Heap.swap h i ((i - 1) / 2)) ((i - 1) / 2)
    else h

/-- `SiftDown` at positions `k - 1` down to 0 (40_datapath R134). -/
def Heap.heapify : Nat → Heap → Heap
  | 0, h => h
  | k + 1, h => Heap.heapify k (Heap.siftDown h.length h k)

/-- `HeapBuild(list)`: bottom-up heapify (40_datapath R134). -/
def Heap.build (list : List Key) : Heap := Heap.heapify (list.length / 2) list

/-- `Push(j)` (40_datapath R135). -/
def Heap.push (h : Heap) (j : Key) : Heap := Heap.siftUp h.length (h ++ [j]) h.length

/-- `Pop()` (40_datapath R135). On an empty queue it is a fault of the model (60_exceptions R301). -/
def Heap.pop (h : Heap) : Except Fault (Key × Heap) :=
  match h with
  | [] => .error .emptyQueue
  | [top] => .ok (top, [])
  | top :: a :: rest =>
    let h' := (a :: rest).getLast (List.cons_ne_nil a rest) :: (a :: rest).dropLast
    .ok (top, Heap.siftDown h'.length h' 0)

end Sys2Proof.Machine
end

