-- ==== Sys2Proof/Machine/Tree.lean ====
section
/-! DEFINITION. The tree builder (40_datapath R140, R141) and the arena as the HOST sees it (10_state R50). -/

namespace Sys2Proof.Machine

/-- Word 0 of an arena entry: KIND [31], RIGHT [24:16], LEFT or SYM [8:0], the other bits 0 (10_state R50). -/
def Node.word0 : Node → Word
  | .leaf s _ => 0#24 ++ s
  | .internal _ l r => 1#1 ++ 0#6 ++ BitVec.ofNat 9 r.val ++ 0#7 ++ BitVec.ofNat 9 l.val

/-- Word 1 of an arena entry: FREQ (10_state R50). -/
def Node.word1 : Node → Word
  | .leaf _ f => f
  | .internal f _ _ => f

/-- `isLeaf` (00_scope R17). -/
def Node.isLeaf : Node → Bool
  | .leaf _ _ => true
  | .internal _ _ _ => false

/-- What a successful BuildTree returns: the arena image, the root, the number of symbols and their total. -/
structure Built where
  arena : Arena
  root : NodeIdx
  count : Nat
  total : Nat
  deriving DecidableEq, Repr

/-- Why BuildTree does not succeed: an error of the block, or a fault of the model. -/
inductive BuildError where
  | err (e : ErrCode) (info : Word)
  | fault (f : Fault)
  deriving DecidableEq, Repr

/-- The first loop of BuildTree over the present symbols: the running total, or the first symbol whose frequency is
2^31 or more or at which the total exceeds INT32_MAX (40_datapath R140). -/
def sumFreqs (F : Table Word) : Nat → List Byte → Except Byte Nat
  | total, [] => .ok total
  | total, s :: ss =>
    if freqOf F s ≥ 2 ^ 31 then .error s
    else if total + freqOf F s > Config.int32Max then .error s
    else sumFreqs F (total + freqOf F s) ss

theorem padded_length (entries : List Node) (n : Nat) :
    ((entries ++ List.replicate n Node.unused).take n).length = n := by simp

/-- The arena image that starts with the given entries, all others unused (40_datapath R140, D39). -/
def arenaOf (entries : List Node) : Arena :=
  ⟨⟨(entries ++ List.replicate 511 Node.unused).take 511⟩, padded_length entries 511⟩

/-- The leaves of the present symbols, in ascending order (40_datapath R140, R141). -/
def leaves (F : Table Word) : List Node := (present F).map fun s => .leaf s (Table.at F s)

/-- An arena index from a number. Every number BuildTree gives it is at most 510 (40_datapath R142). -/
def nodeIdx (n : Nat) : NodeIdx := Fin.ofNat 511 n

/-- The keys of the entries at arena indices `j`, `j + 1`, … (40_datapath R131, R141). -/
def keysFrom : Nat → List Node → List Key
  | _, [] => []
  | j, n :: ns => { freq := n.freq, idx := nodeIdx j } :: keysFrom (j + 1) ns

/-- One round of BuildTree's loop: pop `l`, pop `r`, make the internal node that becomes arena entry `next`, push it
(40_datapath R140). -/
def mergeTwo (h : Heap) (next : Nat) : Except Fault (Node × Heap) :=
  match Heap.pop h with
  | .error f => .error f
  | .ok (l, h1) =>
    match Heap.pop h1 with
    | .error f => .error f
    | .ok (r, h2) =>
      .ok (.internal (word (l.freq + r.freq)) l.idx r.idx,
        Heap.push h2 { freq := l.freq + r.freq, idx := nodeIdx next })

/-- BuildTree's loop, `while HSIZE > 1` (40_datapath R140): the internal nodes in creation order, which are the arena
entries `next`, `next + 1`, …, and the final queue. A round lowers HSIZE by one, so HSIZE rounds are enough. -/
def mergeAll : Nat → Heap → Nat → Except Fault (List Node × Heap)
  | 0, h, _ => .ok ([], h)
  | rounds + 1, h, next =>
    if h.length > 1 then
      match mergeTwo h next with
      | .error f => .error f
      | .ok (node, h') =>
        match mergeAll rounds h' (next + 1) with
        | .error f => .error f
        | .ok (nodes, h'') => .ok (node :: nodes, h'')
    else .ok ([], h)

/-- BuildTree after its checks, for a table of the given total (40_datapath R140). -/
def buildFrom (F : Table Word) (total : Nat) : Except Fault Built :=
  let ls := leaves F
  if ls.length = 1 then .ok { arena := arenaOf ls, root := nodeIdx 0, count := 1, total := total }
  else
    match mergeAll ls.length (Heap.build (keysFrom 0 ls)) ls.length with
    | .error f => .error f
    | .ok (nodes, h) =>
      match Heap.pop h with
      | .error f => .error f
      | .ok (root, _) =>
        .ok { arena := arenaOf (ls ++ nodes), root := root.idx, count := ls.length, total := total }

/-- `BuildTree(F)` (40_datapath R140): frequency range and running total symbol by symbol, then emptiness, then the
tree. -/
def buildTree (F : Table Word) : Except BuildError Built :=
  match sumFreqs F 0 (present F) with
  | .error s => .error (.err .malformedHeader (word s.toNat))
  | .ok total =>
    if (present F).length = 0 then .error (.err .emptyInput 0#32)
    else
      match buildFrom F total with
      | .error f => .error (.fault f)
      | .ok b => .ok b

end Sys2Proof.Machine
end

