-- ==== Sys2Proof/Machine/Codes.lean ====
section
/-! DEFINITION. The code generator (40_datapath R150, R151), the symbol mapping (R155), and the bit packer and unpacker
(R160, R161). -/

namespace Sys2Proof.Machine

/-- The code table: CODE_LEN and CODE_BITS (10_state R51). -/
structure Codes where
  len : Table (BitVec 8)
  bits : Table (BitVec 256)
  deriving DecidableEq, Repr

/-- The table with no codes. -/
def Codes.empty : Codes :=
  { len := Table.const 0#8, bits := Table.const 0#256 }

/-- The number whose bit `j` is bit `j` of the string. -/
def bitsNat : Bits → Nat
  | [] => 0
  | b :: bs => b.toNat + 2 * bitsNat bs

/-- The table with code `p` recorded for symbol `s`; the bits past the code are 0 (40_datapath R150). -/
def Codes.record (c : Codes) (s : Byte) (p : Bits) : Codes :=
  { len := Table.put c.len s (BitVec.ofNat 8 p.length)
    bits := Table.put c.bits s (BitVec.ofNat 256 (bitsNat p)) }

/-- The code of symbol `s`: `BITS[s][0] … BITS[s][LEN[s]-1]` (10_state R51). -/
def Codes.code (c : Codes) (s : Byte) : Bits :=
  (List.range (Table.at c.len s).toNat).map fun j => (Table.at c.bits s).getLsbD j

/-- `Visit(j, p)` (40_datapath R150), through at most `depth` levels below and including `j`. A path of a built tree has
at most 255 edges (R152), so 256 levels are enough; a longer one would not fit the code table. -/
def visit (A : Arena) : Nat → NodeIdx → Bits → Codes → Except Fault Codes
  | 0, _, _, _ => .error .codeTooLong
  | depth + 1, j, p, c =>
    match A[j] with
    | .leaf s _ => .ok (c.record s p)
    | .internal _ l r =>
      match visit A depth l (p ++ [false]) c with
      | .error f => .error f
      | .ok c' => visit A depth r (p ++ [true]) c'

/-- `GenCodes(A, root)` (40_datapath R150); a tree that is one leaf gives its symbol the code "0" (R151). -/
def genCodes (A : Arena) (root : NodeIdx) : Except Fault Codes :=
  match A[root] with
  | .leaf s _ => .ok (Codes.empty.record s [false])
  | .internal _ _ _ => visit A (Config.maxCodeLenHw + 1) root [] Codes.empty

/-- `maxlen`, the largest LEN entry (40_datapath R150). -/
def Codes.maxLen (c : Codes) : Nat := c.len.toList.foldl (fun m l => max m l.toNat) 0

/-- `EncodeBits` from input index `i` on (40_datapath R155): the concatenated codes, or the index of the first symbol
that has none. -/
def encodeBits (c : Codes) : Nat → List Byte → Except Nat Bits
  | _, [] => .ok []
  | i, s :: rest =>
    if Table.at c.len s = 0#8 then .error i
    else
      match encodeBits c (i + 1) rest with
      | .error k => .error k
      | .ok bits => .ok (c.code s ++ bits)

/-- The byte of up to eight bits, most significant first, right-padded with 0 bits (40_datapath R160). -/
def byteOf (bits : Bits) : Byte :=
  BitVec.ofNat 8 (((List.range 8).map fun i => (bits.getD i false).toNat * 2 ^ (7 - i)).sum)

/-- The first `m` bytes of the packed string: each takes the next eight bits (40_datapath R160). -/
def packBytes : Nat → Bits → List Byte
  | 0, _ => []
  | m + 1, bits => byteOf (bits.take 8) :: packBytes m (bits.drop 8)

/-- The packed length `m` of a bit string (40_datapath R160). -/
def packedLen (bits : Bits) : Nat := (bits.length + 7) / 8

/-- The padding count of a bit string (40_datapath R160). -/
def padCount (bits : Bits) : Nat := (8 - bits.length % 8) % 8

/-- `Pack(bits)`'s bytes (40_datapath R160); its length and padding are `packedLen` and `padCount`. -/
def packBits (bits : Bits) : List Byte := packBytes (packedLen bits) bits

/-- A byte's eight bits, most significant first (40_datapath R161). -/
def bitsOf (b : Byte) : Bits := (List.range 8).map fun i => b.getLsbD (7 - i)

/-- `Unpack(P, m, pad)` for `m = |P|`: the bytes' bits without the last `pad` (40_datapath R161). -/
def unpackBits (P : List Byte) (pad : Nat) : Bits := (P.flatMap bitsOf).take (8 * P.length - pad)

end Sys2Proof.Machine
end

