-- ==== Sys2Proof/Machine/Walk.lean ====
section
/-! DEFINITION. The tree walk (40_datapath R165, R166). -/

namespace Sys2Proof.Machine

/-- `WalkLeaf`: the symbol once per bit, whatever the bit (40_datapath R166). `room` is how many bytes still fit and
`cap` the detail reported when none does. -/
def walkLeaf (cap : Nat) (s : Byte) : Nat → Bits → Except (ErrCode × Word) (List Byte)
  | _, [] => .ok []
  | 0, _ :: _ => .error (.capacity, word cap)
  | room + 1, _ :: bits =>
    match walkLeaf cap s room bits with
    | .error e => .error e
    | .ok out => .ok (s :: out)

/-- The child a bit leads to (40_datapath R165). A leaf has none: the walk never stands on one. -/
def child (A : Arena) (j : NodeIdx) (b : Bool) : NodeIdx :=
  match A[j] with
  | .leaf _ _ => j
  | .internal _ l r => if b then r else l

/-- The walk at bit index `t`, standing on `cur`, the unfinished code having begun at `start`
(40_datapath R165). `room` is how many bytes still fit. -/
def walkFrom (A : Arena) (root : NodeIdx) (cap : Nat) :
    (room t start : Nat) → (cur : NodeIdx) → Bits → Except (ErrCode × Word) (List Byte)
  | _, _, start, cur, [] => if cur ≠ root then .error (.truncatedStream, word start) else .ok []
  | room, t, start, cur, b :: bits =>
    let start := if cur = root then t else start
    let next := child A cur b
    match A[next] with
    | .internal _ _ _ => walkFrom A root cap room (t + 1) start next bits
    | .leaf s _ =>
      match room with
      | 0 => .error (.capacity, word cap)
      | room' + 1 =>
        match walkFrom A root cap room' (t + 1) start root bits with
        | .error e => .error e
        | .ok out => .ok (s :: out)

/-- `Walk(A, root, bits, cap)` (40_datapath R165, R166). -/
def walkBits (A : Arena) (root : NodeIdx) (bits : Bits) (cap : Nat) : Except (ErrCode × Word) (List Byte) :=
  match A[root] with
  | .leaf s _ => walkLeaf cap s cap bits
  | .internal _ _ _ => walkFrom A root cap cap 0 0 root bits

end Sys2Proof.Machine
end

