-- ==== Sys2Proof/Machine/Blob.lean ====
section
/-! DEFINITION. Frequency analysis (40_datapath R130) and the blob: serialization (R170) and parsing (R171). -/

namespace Sys2Proof.Machine

/-- `|{ i : IN[i] = s }|` for the symbol of number `s` (40_datapath R130). -/
def occurrences (s : Nat) : List Byte → Nat
  | [] => 0
  | b :: bs => if Nat.beq b.toNat s then occurrences s bs + 1 else occurrences s bs

/-- `Count(IN, L)` (40_datapath R130). -/
def countSymbols (input : List Byte) : Table Word := Table.tabulate fun s => word (occurrences s.toNat input)

/-- The header's pair of one symbol: the symbol, then its frequency (40_datapath R170). -/
def headerEntry (F : Table Word) (s : Byte) : List Byte := s :: le32 (freqOf F s)

/-- `Serialize(F, P, m, pad)` for `m = |P|` (40_datapath R170). -/
def serialize (F : Table Word) (P : List Byte) (pad : Nat) : List Byte :=
  le32 (present F).length ++ (present F).flatMap (headerEntry F) ++ Config.marker ++
    le32 P.length ++ le32 pad ++ P

/-- What ParseBlob returns. -/
structure Parsed where
  freq : Table Word
  count : Nat
  total : Nat
  payload : List Byte
  pad : Nat
  deriving DecidableEq, Repr

/-- The header entries `i..k-1` of ParseBlob, `left` of them, read from blob offset `o`. `low` is one more than the
previous symbol (0 before the first), `F` and `total` what the earlier entries gave. An error is the offset of the
field that failed; a success gives the table, the total and the rest of the blob (40_datapath R171). -/
def parseEntries : (left o low total : Nat) → Table Word → List Byte →
    Except Nat (Table Word × Nat × List Byte)
  | 0, _, _, total, F, rest => .ok (F, total, rest)
  | left + 1, o, low, total, F, s :: f0 :: f1 :: f2 :: f3 :: rest =>
    if s.toNat < low then .error o
    else if sint32 (rdle32 f0 f1 f2 f3) ≤ 0 then .error (o + 1)
    else if total + rdle32 f0 f1 f2 f3 > Config.int32Max then .error (o + 1)
    else
      parseEntries left (o + 5) (s.toNat + 1) (total + rdle32 f0 f1 f2 f3)
        (Table.put F s (word (rdle32 f0 f1 f2 f3))) rest
  | _ + 1, o, _, _, _, _ => .error o

/-- ParseBlob after the `k` entries, from the marker at offset `h` (40_datapath R171): the payload and the padding. -/
def parseTail (k h : Nat) (rest : List Byte) : Except Nat (List Byte × Nat) :=
  if rest.take 10 ≠ Config.marker then .error h
  else
    match rest.drop 10 with
    | m0 :: m1 :: m2 :: m3 :: rest1 =>
      let m := sint32 (rdle32 m0 m1 m2 m3)
      if m < 0 then .error (h + 10)
      else if k = 0 ∧ m ≠ 0 then .error (h + 10)
      else
        match rest1 with
        | p0 :: p1 :: p2 :: p3 :: P =>
          let pad := sint32 (rdle32 p0 p1 p2 p3)
          if pad < 0 ∨ pad > 7 then .error (h + 14)
          else if m = 0 ∧ pad ≠ 0 then .error (h + 14)
          else if (P.length : Int) ≠ m then .error (h + 18)
          else .ok (P, pad.toNat)
        | _ => .error (h + 14)
    | _ => .error (h + 10)

/-- `ParseBlob(B, len)` for `len = |B|` (40_datapath R171): the checks in blob order, an error being the byte offset
of the field that failed. -/
def parseBlob : List Byte → Except Nat Parsed
  | k0 :: k1 :: k2 :: k3 :: rest =>
    let k := sint32 (rdle32 k0 k1 k2 k3)
    if k < 0 ∨ k > 256 then .error 0
    else
      match parseEntries k.toNat 4 0 0 (Table.const 0#32) rest with
      | .error o => .error o
      | .ok (F, total, rest1) =>
        match parseTail k.toNat (4 + 5 * k.toNat) rest1 with
        | .error o => .error o
        | .ok (P, pad) => .ok { freq := F, count := k.toNat, total := total, payload := P, pad := pad }
  | _ => .error 0

end Sys2Proof.Machine
end

