-- ==== Sys2Proof/Machine/ControlFamily.lean ====
section
/-! DEFINITION. The control commands NOP and CLEAR and the execution of illegal words (43_control). -/

namespace Sys2Proof.Machine

/-- CLEAR's writes (43_control R231). IN_BUF, IN_LEN, IRQ_EN, WDROP and the bytes of PAYLOAD and OUT_BUF stay. -/
def State.clearDatapath (s : State) : State :=
  { s.invAll with
    freq := Table.const 0#32
    codeLen := Table.const 0#8
    codeBits := Table.const 0#256
    node := Arena.unused
    outLen := 0#32
    symCount := 0#32
    total := 0#32 }

/-- NOP (43_control R230). -/
def execNop (s : State) : Host.Outcome State Fault Refusal := (Effect.done s).outcome

/-- CLEAR (43_control R231). -/
def execClear (s : State) : Host.Outcome State Fault Refusal := (Effect.done s.clearDatapath).outcome

/-- An illegal command word: ILLEGAL_COMMAND with the whole word PENDING as detail, and no other effect
(43_control R232, 30_encoding R114). -/
def execIllegal (s : State) : Host.Outcome State Fault Refusal :=
  (Effect.raised s .illegalCommand s.pending).outcome

end Sys2Proof.Machine
end

