-- ==== Sys2Proof/Machine/EncodeFamily.lean ====
section
/-! DEFINITION. The encode commands (41_encode R180 to R186): each command's body, and each command's meaning. -/

namespace Sys2Proof.Machine

/-- ANALYZE.body (41_encode R180). -/
def analyzeBody (s : State) : Effect :=
  let F := countSymbols s.input
  .done { s.invAll with freq := F, symCount := word (present F).length, total := s.inLen }

/-- BUILD_TREE.body (41_encode R181). NODE and HEAP are not written when BuildTree fails. -/
def buildTreeBody (s : State) : Effect :=
  match buildTree s.freq with
  | .error (.fault f) => .fault f
  | .error (.err e info) => .raised { s.invTree with symCount := 0#32, total := 0#32 } e info
  | .ok b =>
    .done { s.invCodes.loseHeap with
      node := b.arena, treeRoot := b.root, symCount := word b.count, total := word b.total, treeValid := true }

/-- GEN_CODES.body (41_encode R182). -/
def genCodesBody (s : State) : Effect :=
  if s.treeValid = false then .raised s .sequence treeBit
  else
    match genCodes s.node s.treeRoot with
    | .error f => .fault f
    | .ok c =>
      .done { s with codeLen := c.len, codeBits := c.bits, maxCodeLen := word c.maxLen, codesValid := true }

/-- The code table the block holds (10_state R51). -/
def State.codes (s : State) : Codes := { len := s.codeLen, bits := s.codeBits }

/-- PACK.body (41_encode R183). -/
def packBody (s : State) : Effect :=
  if s.codesValid = false then .raised s .sequence codesBit
  else
    match encodeBits s.codes 0 s.input with
    | .error i => .raised s.invPay.losePayload .unknownSymbol (word i)
    | .ok bits =>
      if packedLen bits > s.params.payCap then
        .raised s.invPay.losePayload .capacity (word (packedLen bits))
      else
        .done { s.setPayload (packBits bits) with
          payLen := word (packedLen bits), pad := word (padCount bits), bitLen := word bits.length
          payloadValid := true }

/-- The blob of the block's table and payload (41_encode R184). -/
def State.blob (s : State) : List Byte := serialize s.freq s.packed s.pad.toNat

/-- SERIALIZE.body (41_encode R184). -/
def serializeBody (s : State) : Effect :=
  if s.payloadValid = false then .raised s .sequence payloadBit
  else if s.blob.length > s.params.outCap then .raised s.loseOutput .capacity (word s.blob.length)
  else .done (s.setOutput s.blob)

/-- ENCODE's empty-input path up to SERIALIZE: an empty valid payload (41_encode R185, R186). PAY_LEN is 0, so every byte
of PAYLOAD is unspecified (10_state R52): a fresh draw, the model's choice where R185 is silent (notes/assumptions/22.md). -/
def State.emptyPayload (s : State) : State :=
  { s.setPayload [] with payLen := 0#32, pad := 0#32, bitLen := 0#32, payloadValid := true }

/-- ENCODE's pseudocode (41_encode R185): the bodies in order, with the empty-input path of R186. -/
def encodeBody (s : State) : Effect :=
  (analyzeBody s).andThen fun s =>
    if s.inLen = 0#32 then serializeBody s.emptyPayload
    else
      (buildTreeBody s).andThen fun s =>
        (genCodesBody s).andThen fun s =>
          (packBody s).andThen serializeBody

/-- ANALYZE (41_encode R180). -/
def execAnalyze (s : State) : Host.Outcome State Fault Refusal := (analyzeBody s).outcome

/-- BUILD_TREE (41_encode R181). -/
def execBuildTree (s : State) : Host.Outcome State Fault Refusal := (buildTreeBody s).outcome

/-- GEN_CODES (41_encode R182). -/
def execGenCodes (s : State) : Host.Outcome State Fault Refusal := (genCodesBody s).outcome

/-- PACK (41_encode R183). -/
def execPack (s : State) : Host.Outcome State Fault Refusal := (packBody s).outcome

/-- SERIALIZE (41_encode R184). -/
def execSerialize (s : State) : Host.Outcome State Fault Refusal := (serializeBody s).outcome

/-- ENCODE (41_encode R185). -/
def execEncode (s : State) : Host.Outcome State Fault Refusal := (encodeBody s).outcome

end Sys2Proof.Machine
end

