-- ==== Sys2Proof/Machine/DecodeFamily.lean ====
section
/-! DEFINITION. The decode commands (42_decode R210 to R212): each command's body, and each command's meaning. -/

namespace Sys2Proof.Machine

/-- PARSE's error path: inv-all, FREQ and PAYLOAD unspecified, SYM_COUNT and TOTAL 0 (42_decode R210). -/
def State.parseFailed (s : State) : State :=
  { s.invAll.loseFreq.losePayload with symCount := 0#32, total := 0#32 }

/-- PARSE.body (42_decode R210). -/
def parseBody (s : State) : Effect :=
  match parseBlob s.input with
  | .error o => .raised s.parseFailed .malformedHeader (word o)
  | .ok r =>
    if r.payload.length > s.params.payCap then .raised s.parseFailed .capacity (word r.payload.length)
    else
      .done { s.invAll.setPayload r.payload with
        freq := r.freq, symCount := word r.count, total := word r.total
        payLen := word r.payload.length, pad := word r.pad, bitLen := word (8 * r.payload.length - r.pad)
        payloadValid := true }

/-- The STATUS valid bits WALK misses (42_decode R211). -/
def State.walkMissing (s : State) : Word :=
  (if s.treeValid = false then treeBit else 0#32) ||| (if s.payloadValid = false then payloadBit else 0#32)

/-- WALK.body (42_decode R211). -/
def walkBody (s : State) : Effect :=
  if s.walkMissing ≠ 0#32 then .raised s .sequence s.walkMissing
  else
    match walkBits s.node s.treeRoot (unpackBits s.packed s.pad.toNat) s.params.outCap with
    | .error (e, info) => .raised s.loseOutput e info
    | .ok out => .done (s.setOutput out)

/-- DECODE's pseudocode (42_decode R212): the bodies in order; a blob of no symbols gives an empty output. There OUT_LEN
becomes 0, so every byte of OUT_BUF is unspecified (10_state R53): a fresh draw, the model's choice where R212 is silent
(notes/assumptions/22.md). -/
def decodeBody (s : State) : Effect :=
  (parseBody s).andThen fun s =>
    if s.symCount = 0#32 then .done (s.setOutput [])
    else (buildTreeBody s).andThen walkBody

/-- PARSE (42_decode R210). -/
def execParse (s : State) : Host.Outcome State Fault Refusal := (parseBody s).outcome

/-- WALK (42_decode R211). -/
def execWalk (s : State) : Host.Outcome State Fault Refusal := (walkBody s).outcome

/-- DECODE (42_decode R212). -/
def execDecode (s : State) : Host.Outcome State Fault Refusal := (decodeBody s).outcome

end Sys2Proof.Machine
end

