-- ==== Sys2Proof/Machine/Dispatch.lean ====
section
/-! DEFINITION. One arm per instruction: which meaning runs (30_encoding R112). -/

namespace Sys2Proof.Machine

def exec (i : Instr) (s : State) : Host.Outcome State Fault Refusal :=
  match i with
  | .nop => Sys2Proof.Machine.execNop s
  | .clear => Sys2Proof.Machine.execClear s
  | .analyze => Sys2Proof.Machine.execAnalyze s
  | .buildTree => Sys2Proof.Machine.execBuildTree s
  | .genCodes => Sys2Proof.Machine.execGenCodes s
  | .pack => Sys2Proof.Machine.execPack s
  | .serialize => Sys2Proof.Machine.execSerialize s
  | .encode => Sys2Proof.Machine.execEncode s
  | .parse => Sys2Proof.Machine.execParse s
  | .walk => Sys2Proof.Machine.execWalk s
  | .decode => Sys2Proof.Machine.execDecode s

end Sys2Proof.Machine
end

