-- ==== Sys2Proof/Machine/Bus.lean ====
section
/-! DEFINITION. The HOST bus: the address map (20_memory R82), reads (R85) and writes (R86), and the HOST's programs
(30_encoding R116, R117). -/

namespace Sys2Proof.Machine

/-- The registers of the register block (10_state R32). -/
inductive Reg where
  | id | version | cmd | status | irqEn | inLen | outLen | payLen | pad | bitLen | symCount | total | treeRoot
  | maxCodeLen | errInfo | inCapReg | outCapReg | payCapReg
  deriving DecidableEq, Repr

/-- What a word of the address space is (20_memory R82). A buffer location carries the index of the word's first
byte. -/
inductive Loc where
  | reg (r : Reg)
  | reserved
  | freq (s : Byte)
  | codeLen (s : Byte)
  | codeBits (s : Byte) (k : Nat)
  | tree (j : Nat) (second : Bool)
  | inBuf (i : Nat)
  | outBuf (i : Nat)
  | payload (i : Nat)
  | unmapped
  deriving DecidableEq, Repr

/-- The registers in the order of their offsets 0x000, 0x004, … (10_state R32). -/
def regs : List Reg :=
  [.id, .version, .cmd, .status, .irqEn, .inLen, .outLen, .payLen, .pad, .bitLen, .symCount, .total, .treeRoot,
   .maxCodeLen, .errInfo, .inCapReg, .outCapReg, .payCapReg]

/-- The offset of a register (10_state R32). -/
def Reg.offset : Reg → Word
  | .id => 0x000#32
  | .version => 0x004#32
  | .cmd => 0x008#32
  | .status => 0x00C#32
  | .irqEn => 0x010#32
  | .inLen => 0x014#32
  | .outLen => 0x018#32
  | .payLen => 0x01C#32
  | .pad => 0x020#32
  | .bitLen => 0x024#32
  | .symCount => 0x028#32
  | .total => 0x02C#32
  | .treeRoot => 0x030#32
  | .maxCodeLen => 0x034#32
  | .errInfo => 0x038#32
  | .inCapReg => 0x03C#32
  | .outCapReg => 0x040#32
  | .payCapReg => 0x044#32

/-- The location of an offset: its bits [1:0] are ignored (20_memory R81), the rest is looked up in the map (R82). -/
def locate (off : Word) : Loc :=
  let a := off.toNat / 4 * 4
  if a < 0x100 then
    match regs[a / 4]? with
    | some r => .reg r
    | none => .reserved
  else if a < 0x400 then .unmapped
  else if a < 0x800 then .freq (BitVec.ofNat 8 ((a - 0x400) / 4))
  else if a < 0xC00 then .codeLen (BitVec.ofNat 8 ((a - 0x800) / 4))
  else if a < 0x1000 then .unmapped
  else if a < 0x3000 then .codeBits (BitVec.ofNat 8 ((a - 0x1000) / 32)) ((a - 0x1000) % 32 / 4)
  else if a < 0x4000 then .unmapped
  else if a < 0x5000 then .tree ((a - 0x4000) / 8) (decide ((a - 0x4000) % 8 = 4))
  else if a < 0x100000 then .unmapped
  else if a < 0x200000 then .inBuf (a - 0x100000)
  else if a < 0x300000 then .outBuf (a - 0x200000)
  else if a < 0x400000 then .payload (a - 0x300000)
  else .unmapped

/-- The offset of a bus address: every offset is relative to BASE (20_memory R80). That a bus address has 32 bits and that
BASE plus an offset wraps is the model's choice (notes/assumptions/23.md). -/
def offsetOf (addr : Word) : Word := addr - Config.base

/-- RESULT_SET (20_memory R85): the locations whose reads are unspecified while BUSY. -/
def Loc.inResultSet : Loc → Bool
  | .reg r =>
    match r with
    | .outLen | .payLen | .pad | .bitLen | .symCount | .total | .treeRoot | .maxCodeLen | .errInfo => true
    | .id | .version | .cmd | .status | .irqEn | .inLen | .inCapReg | .outCapReg | .payCapReg => false
  | .freq _ | .codeLen _ | .codeBits _ _ | .tree _ _ | .outBuf _ | .payload _ => true
  | .reserved | .inBuf _ | .unmapped => false

/-- What a register reads as (10_state R32 to R45). CMD is write-only and reads 0. -/
def State.readReg (s : State) : Reg → Word
  | .id => Config.idValue
  | .version => Config.versionValue
  | .cmd => 0#32
  | .status => s.status
  | .irqEn => s.irqEn
  | .inLen => s.inLen
  | .outLen => s.outLen
  | .payLen => s.payLen
  | .pad => s.pad
  | .bitLen => s.bitLen
  | .symCount => s.symCount
  | .total => s.total
  | .treeRoot => word s.treeRoot.val
  | .maxCodeLen => s.maxCodeLen
  | .errInfo => s.errInfo
  | .inCapReg => word s.params.inCap
  | .outCapReg => word s.params.outCap
  | .payCapReg => word s.params.payCap

/-- The little-endian word at byte index `i` of a buffer; beyond its capacity it reads 0 (20_memory R83, R84). -/
def Memory.readWord (m : Memory) (cap i : Nat) : Word :=
  if i < cap then m.read (i + 3) ++ m.read (i + 2) ++ m.read (i + 1) ++ m.read i else 0#32

/-- The buffer with the little-endian word at byte index `i` written; beyond its capacity the write is ignored
(20_memory R83, R84). -/
def Memory.writeWord (m : Memory) (cap i : Nat) (v : Word) : Memory :=
  if i < cap then
    (((m.write i (v.extractLsb' 0 8)).write (i + 1) (v.extractLsb' 8 8)).write (i + 2) (v.extractLsb' 16 8)).write
      (i + 3) (v.extractLsb' 24 8)
  else m

/-- Byte `i` of a buffer whose first `len` bytes are meaningful, as a read shows it: at or past `len` it is unspecified,
at any time (70_reset R353), so a free value of draw number `seed` (notes/assumptions/11.md). -/
def Memory.shownByte (m : Memory) (len seed i : Nat) : Byte :=
  if i < len then m.read i else Config.freeByte seed i

/-- The little-endian word of such bytes at byte index `i`; beyond the capacity it reads 0 (20_memory R83, R84). -/
def Memory.shownWord (m : Memory) (cap len seed i : Nat) : Word :=
  if i < cap then
    m.shownByte len seed (i + 3) ++ m.shownByte len seed (i + 2) ++ m.shownByte len seed (i + 1) ++
      m.shownByte len seed i
  else 0#32

/-- Whether the word at byte index `i`, inside the capacity, reaches a byte at or past the length (70_reset R353). -/
def reachesPast (cap len i : Nat) : Bool := decide (i < cap) && decide (len < i + 4)

/-- Whether a read of a location while IDLE shows an unspecified byte of PAYLOAD or OUT_BUF (70_reset R353). -/
def State.showsFreeByte (s : State) : Loc → Bool
  | .outBuf i => reachesPast s.params.outCap s.outLen.toNat i
  | .payload i => reachesPast s.params.payCap s.payLen.toNat i
  | .reg _ | .reserved | .freq _ | .codeLen _ | .codeBits _ _ | .tree _ _ | .inBuf _ | .unmapped => false

/-- The value of a location, while IDLE (20_memory R82 to R85). The bytes of OUT_BUF and PAYLOAD at or past their lengths
are free values of the next draw. -/
def State.peek (s : State) : Loc → Word
  | .reg r => s.readReg r
  | .reserved => 0#32
  | .freq b => Table.at s.freq b
  | .codeLen b => 0#24 ++ Table.at s.codeLen b
  | .codeBits b k => (Table.at s.codeBits b).extractLsb' (32 * k) 32
  | .tree j second =>
    if h : j < 511 then (if second then s.node[j].word1 else s.node[j].word0) else 0#32
  | .inBuf i => s.inBuf.readWord s.params.inCap i
  | .outBuf i => s.outBuf.shownWord s.params.outCap s.outLen.toNat s.draws i
  | .payload i => s.payload.shownWord s.params.payCap s.payLen.toNat s.draws i
  | .unmapped => 0#32

/-- The state with its next draw used up. -/
def State.drawn (s : State) : State := { s with draws := s.draws + 1 }

/-- `MemRead(off, 4)` (20_memory R85): the data, and the state, in which only the count of draws may have advanced. While
BUSY a RESULT_SET location reads as a free value (U1); while IDLE the bytes of PAYLOAD and OUT_BUF at or past their
lengths do (U4, U5). -/
def State.memRead (s : State) (off : Word) : Word × State :=
  if s.busy && (locate off).inResultSet then (Config.freeWord s.draws 0, s.drawn)
  else (s.peek (locate off), if s.showsFreeByte (locate off) then s.drawn else s)

/-- An accepted write of `v` to FREQ[b]: the entry takes all 32 bits, and inv-all (20_memory R87). -/
def State.writeFreq (s : State) (b : Byte) (v : Word) : State :=
  { s.invAll with freq := Table.put s.freq b v }

/-- An accepted write of `v` to IN_LEN: the smaller of `v` and IN_CAP (10_state R40). -/
def State.writeInLen (s : State) (v : Word) : State :=
  { s with inLen := word (min v.toNat s.params.inCap) }

/-- A write dropped because PHASE = BUSY (20_memory R86, 70_reset R362). -/
def State.dropWrite (s : State) : State := { s with wdrop := true }

/-- A HOST write of `v` to a location that is neither STATUS, IRQ_EN nor CMD, accepted while IDLE (20_memory R86 to
R90). Read-only registers and windows, reserved and unmapped offsets ignore it. -/
def State.acceptWrite (s : State) (l : Loc) (v : Word) : State :=
  match l with
  | .reg .inLen => s.writeInLen v
  | .freq b => s.writeFreq b v
  | .inBuf i => { s with inBuf := s.inBuf.writeWord s.params.inCap i v }
  | .reg _ | .reserved | .codeLen _ | .codeBits _ _ | .tree _ _ | .outBuf _ | .payload _ | .unmapped => s

/-- `MemWrite(off, 4, v)` (20_memory R86). -/
def State.memWrite (s : State) (off v : Word) : State :=
  match locate off with
  | .reg .status => s.acknowledge v
  | .reg .irqEn => s.writeIrqEn v
  | .reg .cmd => s.issue v
  | l => if s.busy then s.dropWrite else s.acceptWrite l v

/-- `MemRead` at a platform bus address (20_memory R80). -/
def State.busRead (s : State) (addr : Word) : Word × State := s.memRead (offsetOf addr)

/-- `MemWrite` at a platform bus address (20_memory R80). -/
def State.busWrite (s : State) (addr v : Word) : State := s.memWrite (offsetOf addr) v

/-- A bus read by the HOST, which keeps the data. -/
def State.hostRead (s : State) (off : Word) : State :=
  { (s.memRead off).2 with rdata := (s.memRead off).1 }

/-- One HOST turn: its next operation, in program order (20_memory R97). `wait` reads STATUS once and stays the next
operation until the value read has bit 0 = 0 (30_encoding R117). A HOST with no operation left does nothing. -/
def State.hostTurn (s : State) : State :=
  match s.prog with
  | [] => s
  | .wr off v :: ops => { s with prog := ops }.memWrite off v
  | .rd off :: ops => { s with prog := ops }.hostRead off
  | .wait :: ops =>
    let s' := s.hostRead Reg.status.offset
    if s'.rdata.getLsbD 0 then s' else { s' with prog := ops }

/-! ### The HOST assembly (30_encoding R116, R117) -/

/-- `wr CMD, OPC(M)` then `wait`. -/
def asmCmd (i : Instr) : List HostOp := [.wr Reg.cmd.offset (encode i), .wait]

/-- `ack`: clears DONE and WDROP. -/
def asmAck : List HostOp := [.wr Reg.status.offset 0x0000000A#32]

/-- `check M, V`: a read of `M`; the comparison with `V` is the tester's, not a bus effect. -/
def asmCheck (r : Reg) : List HostOp := [.rd r.offset]

/-- The base of the IN_BUF window (20_memory R82). -/
def inBufBase : Nat := 0x100000

/-- The bus writes of `load_in` from byte index `i` on: little-endian words, bytes past the end written as 0. -/
def asmLoadWords : Nat → List Byte → List HostOp
  | _, [] => []
  | i, [b0] => [.wr (word (inBufBase + i)) (0#8 ++ 0#8 ++ 0#8 ++ b0)]
  | i, [b0, b1] => [.wr (word (inBufBase + i)) (0#8 ++ 0#8 ++ b1 ++ b0)]
  | i, [b0, b1, b2] => [.wr (word (inBufBase + i)) (0#8 ++ b2 ++ b1 ++ b0)]
  | i, b0 :: b1 :: b2 :: b3 :: bs => .wr (word (inBufBase + i)) (b3 ++ b2 ++ b1 ++ b0) :: asmLoadWords (i + 4) bs

/-- `load_in B`. -/
def asmLoadIn (bs : List Byte) : List HostOp := asmLoadWords 0 bs ++ [.wr Reg.inLen.offset (word bs.length)]

end Sys2Proof.Machine
end

