-- ==== Sys2Proof/Machine/Sequencer.lean ====
section
/-! DEFINITION. The command sequencer and whose turn it is (10_state R31, R36; 60_exceptions R322; 70_reset R366). -/

namespace Sys2Proof.Machine

/-- The CORE's turn: while BUSY it executes the command PENDING as one atomic transition; while IDLE it has no step
(10_state R36). An illegal word executes too (43_control R232). -/
def State.coreTurn (s : State) : Host.Outcome State Fault Refusal :=
  match s.phase with
  | .idle => .next s
  | .busy =>
    match Sys2Proof.decode s.pending with
    | .ok i => exec i s
    | .error _ => execIllegal s

/-- Whose turn it is: the schedule's next entry; when it has none, CORE while BUSY, else the HOST. A schedule is
finite, so an issued command always comes to its step (70_reset R366, weak fairness). -/
def State.nextTurn (s : State) : Turn × List Turn :=
  match s.sched with
  | t :: ts => (t, ts)
  | [] =>
    match s.phase with
    | .busy => (.core, [])
    | .idle => (.host, [])

/-- One turn of the agent `t` (00_scope R7). -/
def State.take (s : State) (t : Turn) : Host.Outcome State Fault Refusal :=
  match t with
  | .host => .next s.hostTurn
  | .core => s.coreTurn
  | .reset => .next s.resetEvent

/-- One step: the agent whose turn it is moves. -/
def State.advance (s : State) : Host.Outcome State Fault Refusal :=
  { s with sched := s.nextTurn.2 }.take s.nextTurn.1

/-- The command word `c` issued from IDLE (10_state R35), CORE moving next. -/
def State.withCommand (s : State) (c : Word) : State :=
  { { s with phase := .idle }.issue c with sched := [] }

end Sys2Proof.Machine
end

