-- ==== Sys2Proof/Machine/Step.lean ====
section
/-! DEFINITION. One step of the machine, and how a command comes to be its next one. -/

namespace Sys2Proof.Machine

/-- One step: the agent whose turn it is moves (00_scope R7, 10_state R36). -/
def step (s : State) : Host.Outcome State Fault Refusal := s.advance

/-- `s` with the opcode table's word issued as the pending command and CORE to move next: the block fetches nothing,
and a command takes effect from its CMD write alone (10_state R31, R35, 20_memory R100). -/
def State.withFetchWord (s : State) (nbits w : Nat) : State := s.withCommand (Sys2Proof.tableWord nbits w)

end Sys2Proof.Machine
end

