-- ==== Sys2Proof/Safety.lean ====
section
/-! DEFINITION. What the claims are stated in: the machine's invariant, the end of a run, and the properties the spec
gives its data (legal tables, heaps, trees, codes). -/

namespace Sys2Proof.Machine

/-- A run is over: the HOST has no operation left and PHASE = IDLE (70_reset R369). -/
def State.RunOver (s : State) : Prop := s.prog = [] ∧ s.phase = .idle

/-- The sum of the frequencies of the given symbols. -/
def freqSum (F : Table Word) (ss : List Byte) : Nat := (ss.map (freqOf F)).sum

/-- Every entry is below 2^31 and the sum of all entries is at most INT32_MAX (10_state R47, 40_datapath R140). -/
def FreqLegal (F : Table Word) : Prop :=
  (∀ b : Byte, freqOf F b < 2 ^ 31) ∧ freqSum F allSymbols ≤ Config.int32Max

/-- Every state a run reaches meets this, whatever the parameters and free values (10_state R40 to R44, R47; 60_exceptions
R301). -/
structure State.Inv (s : State) : Prop where
  /-- The parameters meet their constraints (00_scope R9). -/
  params : s.params.wf = true
  /-- IN_LEN never exceeds IN_CAP (10_state R40). -/
  inLen : s.inLen.toNat ≤ s.params.inCap
  /-- OUT_LEN never exceeds OUT_CAP (10_state R41). -/
  outLen : s.outLen.toNat ≤ s.params.outCap
  /-- The buffers are in canonical form and lie inside their capacities (10_state R48, R52, R53). -/
  inBuf : s.inBuf.wf = true ∧ s.inBuf.within s.params.inCap = true
  payload : s.payload.wf = true ∧ s.payload.within s.params.payCap = true
  outBuf : s.outBuf.wf = true ∧ s.outBuf.within s.params.outCap = true
  /-- While a command is pending, no completion is (10_state R35, R38). -/
  busy : s.phase = .busy → s.done = false ∧ s.err = .none
  /-- ERR_INFO is 0 when no error is reported (10_state R44). -/
  noError : s.err = .none → s.errInfo = 0#32
  /-- EMPTY_QUEUE is never reported (60_exceptions R301). -/
  noEmptyQueue : s.err ≠ .emptyQueue
  /-- SYM_COUNT and TOTAL stay in their ranges (10_state R43). -/
  symCount : s.symCount.toNat ≤ 256
  total : s.total.toNat ≤ Config.int32Max
  /-- TREE_VALID = 1: NODE and TREE_ROOT are BuildTree of FREQ (10_state R47). -/
  tree : s.treeValid = true →
    ∃ count total, buildTree s.freq = .ok { arena := s.node, root := s.treeRoot, count := count, total := total }
  /-- TREE_VALID = 0: TREE_ROOT is 0 (10_state R43). -/
  noTree : s.treeValid = false → s.treeRoot = 0
  /-- CODES_VALID = 1: the tree is valid and the code table is GenCodes of it (10_state R47, R43). -/
  codes : s.codesValid = true →
    s.treeValid = true ∧ genCodes s.node s.treeRoot = .ok s.codes ∧ s.maxCodeLen = word s.codes.maxLen
  /-- CODES_VALID = 0: MAX_CODE_LEN is 0 (10_state R43). -/
  noCodes : s.codesValid = false → s.maxCodeLen = 0#32
  /-- PAYLOAD_VALID = 1: the payload registers are consistent and FREQ is legal (10_state R42, R47). -/
  pay : s.payloadValid = true →
    s.payLen.toNat ≤ s.params.payCap ∧ s.pad.toNat ≤ 7 ∧ (s.payLen = 0#32 → s.pad = 0#32) ∧
      s.bitLen.toNat + s.pad.toNat = 8 * s.payLen.toNat ∧ FreqLegal s.freq
  /-- PAYLOAD_VALID = 0: the payload registers are 0 (10_state R42). -/
  noPay : s.payloadValid = false → s.payLen = 0#32 ∧ s.pad = 0#32 ∧ s.bitLen = 0#32

/-- The valid bits and the registers tied to them (10_state R47). -/
def State.validView (s : State) : (Bool × Bool × Bool) × (NodeIdx × Word × Word × Word × Word) :=
  ((s.treeValid, s.codesValid, s.payloadValid), (s.treeRoot, s.maxCodeLen, s.payLen, s.pad, s.bitLen))

/-- What inv-all leaves of them (10_state R47). -/
def invAllView : (Bool × Bool × Bool) × (NodeIdx × Word × Word × Word × Word) :=
  ((false, false, false), (0, 0#32, 0#32, 0#32, 0#32))

/-- Every register, table and buffer at the value the spec states for reset; the contents it leaves unspecified hold no
definite byte (70_reset R350, 10_state R57). -/
def State.AtReset (s : State) : Prop :=
  s.phase = .idle ∧ s.readReg .id = 0x48554646#32 ∧ s.readReg .version = 1#32 ∧
  s.status = 0#32 ∧ s.irqEn = 0#32 ∧ s.inLen = 0#32 ∧
  s.outLen = 0#32 ∧ s.payLen = 0#32 ∧ s.pad = 0#32 ∧ s.bitLen = 0#32 ∧ s.symCount = 0#32 ∧ s.total = 0#32 ∧
  s.readReg .treeRoot = 0#32 ∧ s.maxCodeLen = 0#32 ∧ s.errInfo = 0#32 ∧
  s.readReg .inCapReg = word s.params.inCap ∧ s.readReg .outCapReg = word s.params.outCap ∧
  s.readReg .payCapReg = word s.params.payCap ∧
  (∀ b : Byte, Table.at s.freq b = 0#32 ∧ Table.at s.codeLen b = 0#8 ∧ Table.at s.codeBits b = 0#256) ∧
  (∀ j : NodeIdx, s.node[j].word0 = 0#32 ∧ s.node[j].word1 = 0#32) ∧
  s.inBuf.cells = [] ∧ s.outBuf.cells = [] ∧ s.payload.cells = [] ∧ s.irq = false

/-- The heap order (40_datapath R132): no position holds a smaller key than its parent. -/
def IsHeap (h : Heap) : Prop := ∀ i, 0 < i → i < h.length → Heap.less h i ((i - 1) / 2) = false

/-- `p` is an internal node of the arena with `j` as a child. -/
def ParentOf (A : Arena) (p j : NodeIdx) : Prop :=
  match A[p] with
  | .leaf _ _ => False
  | .internal _ l r => l = j ∨ r = j

/-- `key(j)` of an arena entry (00_scope R16). -/
def Arena.key (A : Arena) (j : NodeIdx) : Key := { freq := A[j].freq, idx := j }

/-- Entry `k` is in the queue when entry `j` is made: it is earlier, and no entry before `j` has it as a child
(40_datapath R140, R141). -/
def Arena.Waiting (A : Arena) (j k : NodeIdx) : Prop := k < j ∧ ∀ p, p < j → ¬ ParentOf A p k

/-- The properties (a) to (d) that 40_datapath R142 gives a tree built from `F`, and which entries each internal node
joins (R140). -/
structure TreeOf (F : Table Word) (b : Built) : Prop where
  /-- (a) Entries 0..n-1 are the leaves of the present symbols in ascending order. -/
  leavesFirst : ∀ (j : NodeIdx) (s : Byte), (present F)[j.val]? = some s → b.arena[j] = .leaf s (Table.at F s)
  /-- (a) Entries n..2n-2 are internal, and (c) their two children are earlier entries and differ. -/
  internalNext : ∀ j : NodeIdx, (present F).length ≤ j.val → j.val + 1 < 2 * (present F).length →
    ∃ f l r, b.arena[j] = .internal f l r ∧ l < j ∧ r < j ∧ l ≠ r ∧
      f.toNat = b.arena[l].freq + b.arena[r].freq
  /-- Each internal node joins the two entries with the least keys that are waiting, the lesser on the left ("in pop
  order", R140; the tie-break of R131, R141). -/
  joinsLeast : ∀ (j : NodeIdx) (f : Word) (l r : NodeIdx), b.arena[j] = .internal f l r →
    Arena.Waiting b.arena j l ∧ Arena.Waiting b.arena j r ∧
      keyLt (Arena.key b.arena l) (Arena.key b.arena r) = true ∧
      ∀ k, Arena.Waiting b.arena j k → k ≠ l → k ≠ r → keyLt (Arena.key b.arena r) (Arena.key b.arena k) = true
  /-- (a) Entries 2n-1..510 are unused. -/
  unusedLast : ∀ j : NodeIdx, 2 * (present F).length ≤ j.val + 1 → b.arena[j] = .unused
  /-- (b) The root is the last node. -/
  rootLast : b.root.val + 2 = 2 * (present F).length
  /-- (c) Every entry other than the root is the child of exactly one internal node. -/
  oneParent : ∀ j : NodeIdx, j < b.root → ∃ p, ParentOf b.arena p j ∧ ∀ q, ParentOf b.arena q j → q = p
  /-- The count is the number of present symbols, the total the sum of their frequencies. -/
  count : b.count = (present F).length
  total : b.total = freqSum F allSymbols
  /-- (d) The root's frequency is the total, and no frequency exceeds it. -/
  rootFreq : b.arena[b.root].freq = b.total
  freqBound : ∀ j : NodeIdx, b.arena[j].freq ≤ b.total
  totalBound : b.total ≤ Config.int32Max

/-- The bits `p` lead from entry `j` to a leaf of symbol `s`: a 0 to the LEFT child, a 1 to the RIGHT child
(40_datapath R150). -/
def LeafAt (A : Arena) : NodeIdx → Bits → Byte → Prop
  | j, [], s =>
    match A[j] with
    | .leaf s' _ => s' = s
    | .internal _ _ _ => False
  | j, b :: p, s =>
    match A[j], b with
    | .leaf _ _, _ => False
    | .internal _ left _, false => LeafAt A left p s
    | .internal _ _ right, true => LeafAt A right p s

/-- The four bytes of an int32 field of the blob: byte `i` is bits [8i+7:8i] of the value (00_scope R13, 20_memory
R91 (b)). -/
def int32Field (v : Word) : List Byte := (List.range 4).map fun i => v.extractLsb' (8 * i) 8

/-- The header's pairs, a symbol unit and an int32 frequency each (40_datapath R170). -/
def headerPairs (F : Table Word) : List Byte := (present F).flatMap fun s => s :: int32Field (Table.at F s)

/-- The blob's first fields: the symbol count `k` and the pairs of `F` (40_datapath R170). -/
def blobHead (k : Nat) (F : Table Word) : List Byte := int32Field (word k) ++ headerPairs F

/-- No code of the table is a prefix of the code of another symbol (40_datapath R152 (b)). -/
def Codes.PrefixFree (c : Codes) : Prop :=
  ∀ a b : Byte, a ≠ b → Table.at c.len a ≠ 0#8 → Table.at c.len b ≠ 0#8 → ¬ c.code a <+: c.code b

/-- `sum over present s of 2^(-LEN[s])`, scaled by 2^255 (40_datapath R152 (c)). -/
def Codes.kraft (c : Codes) : Nat :=
  (allSymbols.map fun s => if Table.at c.len s = 0#8 then 0 else 2 ^ (255 - (Table.at c.len s).toNat)).sum

end Sys2Proof.Machine

namespace Sys2Proof

/-- The errors each command can report (60_exceptions R300). -/
def Instr.mayRaise : Instr → List Machine.ErrCode
  | .nop => []
  | .clear => []
  | .analyze => []
  | .buildTree => [.emptyInput, .malformedHeader]
  | .genCodes => [.sequence]
  | .pack => [.sequence, .unknownSymbol, .capacity]
  | .serialize => [.sequence, .capacity]
  | .encode => [.capacity, .unknownSymbol]
  | .parse => [.malformedHeader, .capacity]
  | .walk => [.sequence, .truncatedStream, .capacity]
  | .decode => [.malformedHeader, .capacity, .truncatedStream]

end Sys2Proof
end

