-- ==== Sys2Proof/Certificates/Slice0/Obligations.lean ====
section
/-! DEFINITION. The statements about the model, for the provers. Where a conclusion says "there is a memory, a heap or a
count of draws", that value is unspecified by the spec (notes/assumptions/1.md, 2.md, 4.md): the statement says what
is known of it and nothing else. -/

open Sys2Proof Sys2Proof.Machine

/-! ### Reset -/

/-- 70_reset R350, 10_state R57: the state right after reset, and the state a RESET turn gives in either PHASE, have every
reset value; the turn keeps the parameters and touches nothing of the HOST. The default capacities are 00_scope R9's. -/
def Obligations.ResetGivesStatedValues : Prop :=
  (State.reset.AtReset ∧ State.reset.readReg .inCapReg = 65536#32 ∧
    State.reset.readReg .outCapReg = 1048576#32 ∧ State.reset.readReg .payCapReg = 1048576#32) ∧
  (∀ (s : State) (ts : List Turn), s.sched = .reset :: ts →
    ∃ t, step s = .next t ∧ t.AtReset ∧ t.params = s.params ∧
      t.prog = s.prog ∧ t.sched = ts ∧ t.rdata = s.rdata)

/-! ### The sequencer -/

/-- 10_state R35: a write to CMD, for every word. -/
def Obligations.CmdWriteIssuesOrDrops : Prop :=
  ∀ (s : State) (off c : Word), locate off = .reg .cmd →
    (s.phase = .busy → s.memWrite off c = { s with wdrop := true }) ∧
    (s.phase = .idle → s.memWrite off c =
      { s with pending := c, phase := .busy, done := false, err := .none, errInfo := 0#32 })

/-- 10_state R36, 43_control R232: while BUSY a CORE turn executes PENDING; a legal word runs its instruction, any other
word raises ILLEGAL_COMMAND with the word as detail and changes nothing else. -/
def Obligations.StepRunsTheDecodedCommand : Prop :=
  ∀ (s : State) (ts : List Turn), s.phase = .busy →
    (s.sched = .core :: ts ∨ (s.sched = [] ∧ ts = [])) →
    (∀ i, decode s.pending = .ok i → step s = exec i { s with sched := ts }) ∧
    (∀ e, decode s.pending = .error e →
      step s = .next { s with
        sched := ts, phase := .idle, done := true, err := .illegalCommand, errInfo := s.pending })

/-- 10_state R36, R40, R48: a command that gives a next state is complete, and no command touches IN_BUF, IN_LEN,
IRQ_EN, WDROP, PENDING, the capacities, or anything of the HOST's. That PENDING keeps its word at completion is the
model's choice (notes/assumptions/3.md: the spec leaves PENDING unspecified while IDLE), as are the HOST's fields (6.md). -/
def Obligations.CommandsLeaveHostSideAlone : Prop :=
  ∀ (i : Instr) (s t : State), exec i s = .next t →
    t.phase = .idle ∧ t.done = true ∧
    t.inBuf = s.inBuf ∧ t.inLen = s.inLen ∧ t.doneIe = s.doneIe ∧ t.wdrop = s.wdrop ∧ t.pending = s.pending ∧
    t.params = s.params ∧ t.prog = s.prog ∧ t.sched = s.sched ∧ t.rdata = s.rdata

/-- 20_memory R100, 70_reset R362: while a command is pending, whatever the HOST does in its turn leaves the command and
everything it can read as they are. -/
def Obligations.HostCannotDisturbPendingCommand : Prop :=
  ∀ s : State, s.phase = .busy →
    ∃ dn wd ie d pr rd, s.hostTurn =
      { s with done := dn, wdrop := wd, doneIe := ie, draws := d, prog := pr, rdata := rd }

/-- 70_reset R351, 60_exceptions R336: from IDLE nothing starts a command but a HOST write to CMD, and the command is the
word written. -/
def Obligations.OnlyCmdWriteStartsWork : Prop :=
  ∀ s t : State, step s = .next t → s.phase = .idle → t.phase = .busy →
    ∃ off v ops, s.prog = .wr off v :: ops ∧ locate off = .reg .cmd ∧ t.pending = v

/-- 70_reset R366: after an issue PHASE is IDLE again within finitely many turns, one more than the schedule fixes; where
the schedule holds no RESET, because the command has completed (DONE = 1). The finite schedule is the model's form of
weak fairness (notes/assumptions/6.md). -/
def Obligations.PendingCommandCompletes : Prop :=
  ∀ s : State, s.Inv → s.phase = .busy →
    ∃ k t, k ≤ s.sched.length + 1 ∧ Host.Core.run core k s = .next t ∧ t.phase = .idle ∧
      (.reset ∉ s.sched → t.done = true)

/-- 70_reset R369, 60_exceptions R336: a run that is over, with no turn fixed, stays as it is. -/
def Obligations.FinishedRunStays : Prop :=
  ∀ s : State, s.RunOver → s.sched = [] → step s = .next s

/-! ### Decoding -/

/-- 30_encoding R112, R114: decoding inverts encoding in both directions, and the legal words are exactly those with RSVD
zero and a listed OPC. -/
def Obligations.DecodeEncodeAgree : Prop :=
  (∀ i : Instr, i.wf = true → decode (encode i) = .ok i) ∧
  (∀ (w : Word) (i : Instr), decode w = .ok i → encode i = w) ∧
  (∀ w : Word, (∃ e, decode w = .error e) ↔ wordWf w = false)

/-- 30_encoding R112, R114: words written out from the opcode map, and 43_control R232's examples of illegal words. -/
def Obligations.OpcodeMapWords : Prop :=
  decode 0b00000000000000000000000000000001#32 = .ok .clear ∧
  decode 0b00000000000000000000000000010011#32 = .ok .pack ∧
  decode 0b00000000000000000000000000011111#32 = .ok .encode ∧
  decode 0b00000000000000000000000000100001#32 = .ok .walk ∧
  decode 0x00000015#32 = .error .unknownOpcode ∧
  decode 0x00000110#32 = .error .reservedBitsSet

/-! ### Status, interrupt and errors -/

/-- 10_state R37: every bit of the STATUS word; 60_exceptions R300: the codes of ERR. -/
def Obligations.StatusWordLayout : Prop :=
  ∀ s : State,
    s.status.getLsbD 0 = decide (s.phase = .busy) ∧ s.status.getLsbD 1 = s.done ∧
    s.status.getLsbD 2 = decide (s.err ≠ .none) ∧ s.status.getLsbD 3 = s.wdrop ∧
    s.status.getLsbD 4 = s.treeValid ∧ s.status.getLsbD 5 = s.codesValid ∧
    s.status.getLsbD 6 = s.payloadValid ∧ s.status.getLsbD 7 = false ∧
    s.status.extractLsb' 8 8 = (match s.err with
      | .none => 0#8
      | .emptyInput => 1#8
      | .emptyQueue => 2#8
      | .malformedHeader => 3#8
      | .truncatedStream => 4#8
      | .unknownSymbol => 5#8
      | .sequence => 6#8
      | .capacity => 7#8
      | .illegalCommand => 8#8) ∧ s.status.extractLsb' 16 16 = 0#16

/-- 10_state R38: a STATUS write, in either PHASE, clears DONE and WDROP where it has a 1 and changes nothing else. -/
def Obligations.StatusWriteAcknowledges : Prop :=
  ∀ (s : State) (off v : Word), locate off = .reg .status →
    s.memWrite off v =
      { s with done := if v.getLsbD 1 then false else s.done, wdrop := if v.getLsbD 3 then false else s.wdrop }

/-- 60_exceptions R320, 70_reset R350: IRQ is DONE and DONE_IE; every completion, an illegal word's too, sets DONE; DONE,
once set, falls only by a STATUS write with bit 1 set, by an accepted command issue, or by RESET. -/
def Obligations.InterruptPendingUntilAcknowledged : Prop :=
  (∀ s : State, s.irq = (s.done && s.doneIe)) ∧
  (∀ (i : Instr) (s t : State), exec i s = .next t → t.done = true ∧ t.irq = s.doneIe) ∧
  (∀ s : State, ∃ t, execIllegal s = .next t ∧ t.done = true ∧ t.irq = s.doneIe) ∧
  (∀ s t : State, step s = .next t → s.done = true → t.done = false →
    (∃ off v ops, s.prog = .wr off v :: ops ∧
      ((locate off = .reg .status ∧ v.getLsbD 1 = true) ∨ (locate off = .reg .cmd ∧ s.phase = .idle))) ∨
    (∃ ts, s.sched = .reset :: ts))

/-- 60_exceptions R300: the errors each command can report, and when it reports none ERR_INFO is 0. -/
def Obligations.EachCommandsErrors : Prop :=
  ∀ (i : Instr) (s t : State), s.Inv → exec i s = .next t →
    (t.err = .none ∧ t.errInfo = 0#32) ∨ t.err ∈ i.mayRaise

/-- 60_exceptions R302, R307: while no command runs, ERR and ERR_INFO change only by an accepted command issue or
RESET. -/
def Obligations.ErrorReportStaysUntilIssue : Prop :=
  ∀ s t : State, step s = .next t → s.phase = .idle →
    (t.err = s.err ∧ t.errInfo = s.errInfo) ∨
    (∃ off v ops, s.prog = .wr off v :: ops ∧ locate off = .reg .cmd ∧ t.err = .none ∧ t.errInfo = 0#32) ∨
    (∃ ts, s.sched = .reset :: ts)

/-- 10_state R47, 41_encode R185, R186, 42_decode R212: what each event does to the valid bits and the registers tied to
them; ENCODE and DECODE by the error they report. -/
def Obligations.ValidBitsFollowTheTable : Prop :=
  (∀ s : State, s.resetEvent.validView = invAllView) ∧
  (∀ (s : State) (off v : Word), (s.memWrite off v).validView =
    match s.phase, locate off with
    | .idle, .freq _ => invAllView
    | _, _ => s.validView) ∧
  (∀ s t : State, exec .clear s = .next t → t.validView = invAllView) ∧
  (∀ s t : State, exec .analyze s = .next t → t.validView = invAllView) ∧
  (∀ s t : State, exec .buildTree s = .next t →
    t.codesValid = false ∧ t.maxCodeLen = 0#32 ∧ t.payloadValid = s.payloadValid ∧ t.payLen = s.payLen ∧
    t.pad = s.pad ∧ t.bitLen = s.bitLen ∧
    (t.err = .none → t.treeValid = true) ∧ (t.err ≠ .none → t.treeValid = false ∧ t.treeRoot = 0)) ∧
  (∀ s t : State, exec .genCodes s = .next t →
    (t.err = .none → t.codesValid = true) ∧ (t.err ≠ .none → t.validView = s.validView) ∧
    t.treeValid = s.treeValid ∧ t.treeRoot = s.treeRoot ∧ t.payloadValid = s.payloadValid ∧
    t.payLen = s.payLen ∧ t.pad = s.pad ∧ t.bitLen = s.bitLen) ∧
  (∀ s t : State, exec .pack s = .next t →
    t.treeValid = s.treeValid ∧ t.codesValid = s.codesValid ∧ t.treeRoot = s.treeRoot ∧
    t.maxCodeLen = s.maxCodeLen ∧ (t.err = .none → t.payloadValid = true) ∧
    (t.err = .sequence → t.validView = s.validView) ∧
    (t.err ≠ .none → t.err ≠ .sequence →
      t.payloadValid = false ∧ t.payLen = 0#32 ∧ t.pad = 0#32 ∧ t.bitLen = 0#32)) ∧
  (∀ s t : State, exec .parse s = .next t →
    t.treeValid = false ∧ t.codesValid = false ∧ t.treeRoot = 0 ∧ t.maxCodeLen = 0#32 ∧
    (t.err = .none → t.payloadValid = true) ∧ (t.err ≠ .none → t.validView = invAllView)) ∧
  (∀ s t : State, exec .serialize s = .next t ∨ exec .walk s = .next t ∨ exec .nop s = .next t →
    t.validView = s.validView) ∧
  (∀ s t : State, exec .encode s = .next t →
    (s.inLen = 0#32 → t.validView = ((false, false, true), (0, 0#32, 0#32, 0#32, 0#32))) ∧
    (s.inLen ≠ 0#32 →
      (t.err = .none → t.treeValid = true ∧ t.codesValid = true ∧ t.payloadValid = true) ∧
      (t.err = .capacity → t.treeValid = true ∧ t.codesValid = true ∧
        (t.payloadValid = false → t.payLen = 0#32 ∧ t.pad = 0#32 ∧ t.bitLen = 0#32)) ∧
      (t.err = .malformedHeader → t.validView = invAllView))) ∧
  (∀ s t : State, exec .decode s = .next t →
    t.codesValid = false ∧ t.maxCodeLen = 0#32 ∧ (t.treeValid = false → t.treeRoot = 0) ∧
    (t.err = .none → t.payloadValid = true ∧ (t.treeValid = true ↔ t.symCount ≠ 0#32)) ∧
    (t.err = .truncatedStream → t.treeValid = true ∧ t.payloadValid = true) ∧
    (t.err = .malformedHeader → t.validView = invAllView) ∧
    (t.err = .capacity → t.validView = invAllView ∨ (t.treeValid = true ∧ t.payloadValid = true))) ∧
  (∀ s t : State, execIllegal s = .next t → t.validView = s.validView)

/-! ### The invariant -/

/-- The invariant holds at reset, whatever well-formed parameters and free values. -/
def Obligations.InvariantHoldsAtReset : Prop :=
  ∀ (p : Params) (d : Nat), p.wf = true → (State.resetWith p d).Inv

/-- 10_state R47 and the range statements of R40 to R44, R48 to R53: from every state that meets the invariant, a step of
any agent gives a state that meets it. -/
def Obligations.StepKeepsInvariant : Prop :=
  ∀ s t : State, s.Inv → step s = .next t → t.Inv

/-! ### The HOST bus -/

/-- 20_memory R81: offset bits [1:0] are ignored by reads and by writes. -/
def Obligations.OffsetLowBitsIgnored : Prop :=
  ∀ (s : State) (off v : Word),
    s.memRead off = s.memRead (off &&& 0xFFFFFFFC#32) ∧ s.memWrite off v = s.memWrite (off &&& 0xFFFFFFFC#32) v

/-- 10_state R32 to R46, 20_memory R82 to R85, R90, 70_reset R353: what a read gives while IDLE, register by register and
window by window; `l` is the ignored offset bits. A byte of OUT_BUF or PAYLOAD at or past its length is the free value
drawn at this read (notes/assumptions/11.md). -/
def Obligations.IdleReadsFollowTheMap : Prop :=
  ∀ (s : State) (off : Word) (l : Nat), s.phase = .idle → l < 4 →
    (∀ r : Reg, off.toNat = r.offset.toNat + l → (s.memRead off).1 = s.readReg r) ∧
    (∀ p ∈ [(0x000, 0x48554646#32), (0x004, 0x00000001#32), (0x008, 0#32), (0x00C, s.status),
        (0x010, if s.doneIe then 1#32 else 0#32), (0x014, s.inLen), (0x018, s.outLen), (0x01C, s.payLen),
        (0x020, s.pad), (0x024, s.bitLen), (0x028, s.symCount), (0x02C, s.total),
        (0x030, BitVec.ofNat 32 s.treeRoot.val), (0x034, s.maxCodeLen), (0x038, s.errInfo),
        (0x03C, BitVec.ofNat 32 s.params.inCap), (0x040, BitVec.ofNat 32 s.params.outCap),
        (0x044, BitVec.ofNat 32 s.params.payCap)],
      off.toNat = p.1 + l → (s.memRead off).1 = p.2) ∧
    (0x48 ≤ off.toNat → off.toNat < 0x100 → (s.memRead off).1 = 0#32) ∧
    (∀ b : Byte, off.toNat = 0x400 + 4 * b.toNat + l → (s.memRead off).1 = Table.at s.freq b) ∧
    (∀ b : Byte, off.toNat = 0x800 + 4 * b.toNat + l →
      (s.memRead off).1 = (Table.at s.codeLen b).zeroExtend 32) ∧
    (∀ (b : Byte) (k : Nat), k < 8 → off.toNat = 0x1000 + 32 * b.toNat + 4 * k + l →
      (s.memRead off).1 = (Table.at s.codeBits b).extractLsb' (32 * k) 32) ∧
    (∀ j : NodeIdx, off.toNat = 0x4000 + 8 * j.val + l → (s.memRead off).1 = s.node[j].word0) ∧
    (∀ j : NodeIdx, off.toNat = 0x4000 + 8 * j.val + 4 + l → (s.memRead off).1 = s.node[j].word1) ∧
    (0x4FF8 ≤ off.toNat → off.toNat < 0x5000 → (s.memRead off).1 = 0#32) ∧
    (∀ k, k < 262144 → off.toNat = 0x100000 + 4 * k + l →
      (s.memRead off).1 = s.inBuf.readWord s.params.inCap (4 * k)) ∧
    (∀ k, k < 262144 → off.toNat = 0x200000 + 4 * k + l →
      (s.params.outCap ≤ 4 * k → (s.memRead off).1 = 0#32) ∧
      (4 * k < s.params.outCap → ∀ n, n < 4 → (s.memRead off).1.extractLsb' (8 * n) 8 =
        if 4 * k + n < s.outLen.toNat then s.outBuf.read (4 * k + n) else Config.freeByte s.draws (4 * k + n))) ∧
    (∀ k, k < 262144 → off.toNat = 0x300000 + 4 * k + l →
      (s.params.payCap ≤ 4 * k → (s.memRead off).1 = 0#32) ∧
      (4 * k < s.params.payCap → ∀ n, n < 4 → (s.memRead off).1.extractLsb' (8 * n) 8 =
        if 4 * k + n < s.payLen.toNat then s.payload.read (4 * k + n) else Config.freeByte s.draws (4 * k + n))) ∧
    ((0x100 ≤ off.toNat ∧ off.toNat < 0x400) ∨ (0xC00 ≤ off.toNat ∧ off.toNat < 0x1000) ∨
      (0x3000 ≤ off.toNat ∧ off.toNat < 0x4000) ∨ (0x5000 ≤ off.toNat ∧ off.toNat < 0x100000) ∨
      0x400000 ≤ off.toNat → (s.memRead off).1 = 0#32)

/-- 20_memory R83, R84: a buffer's words are little-endian, and beyond the capacity they read 0 and are not written. -/
def Obligations.BufferWordsAreLittleEndian : Prop :=
  ∀ (m : Memory) (cap i : Nat) (v : Word),
    (i < cap → ∀ n, n < 4 → (m.readWord cap i).extractLsb' (8 * n) 8 = m.read (i + n) ∧
      (m.writeWord cap i v).read (i + n) = v.extractLsb' (8 * n) 8) ∧
    (∀ a, a < i ∨ i + 4 ≤ a → (m.writeWord cap i v).read a = m.read a) ∧
    (cap ≤ i → m.readWord cap i = 0#32 ∧ m.writeWord cap i v = m)

/-- 30_encoding R116, R117: what a HOST turn does for each kind of operation; `wait` stays the next operation exactly
while BUSY. -/
def Obligations.HostOperationsInProgramOrder : Prop :=
  ∀ (s : State) (ops : List HostOp),
    (∀ off v, s.prog = .wr off v :: ops → s.hostTurn = { s with prog := ops }.memWrite off v) ∧
    (∀ off, s.prog = .rd off :: ops →
      s.hostTurn.prog = ops ∧ s.hostTurn.rdata = (s.memRead off).1 ∧
      ∃ d, s.hostTurn = { s with prog := ops, rdata := (s.memRead off).1, draws := d }) ∧
    (s.prog = .wait :: ops →
      (s.phase = .busy → s.hostTurn = { s with rdata := s.status }) ∧
      (s.phase = .idle → s.hostTurn = { s with prog := ops, rdata := s.status }))

/-- 20_memory R94: a read has no side effect, in either PHASE; only the model's count of free draws may advance. -/
def Obligations.ReadsHaveNoSideEffect : Prop :=
  ∀ (s : State) (off : Word), ∃ d, (s.memRead off).2 = { s with draws := d }

/-- 70_reset R362: every HOST write while BUSY except to STATUS and IRQ_EN is dropped and sets WDROP. -/
def Obligations.BusyWritesAreDropped : Prop :=
  ∀ (s : State) (off v : Word), s.phase = .busy → locate off ≠ .reg .status → locate off ≠ .reg .irqEn →
    s.memWrite off v = { s with wdrop := true }

/-- 20_memory R83, R84: an IN_BUF write while IDLE stores the word's bytes little-endian, reads back, changes no other
byte and nothing else; beyond the capacity it changes nothing and the word reads 0. -/
def Obligations.InBufWriteIsLittleEndian : Prop :=
  ∀ (s : State) (off v : Word) (k l : Nat), s.phase = .idle → l < 4 → k < 262144 →
    off.toNat = 0x100000 + 4 * k + l →
    (4 * k < s.params.inCap →
      ∃ m, s.memWrite off v = { s with inBuf := m } ∧
        m.read (4 * k) = v.extractLsb' 0 8 ∧ m.read (4 * k + 1) = v.extractLsb' 8 8 ∧
        m.read (4 * k + 2) = v.extractLsb' 16 8 ∧ m.read (4 * k + 3) = v.extractLsb' 24 8 ∧
        (∀ a, a < 4 * k ∨ 4 * k + 4 ≤ a → m.read a = s.inBuf.read a) ∧
        ((s.memWrite off v).memRead off).1 = v) ∧
    (s.params.inCap ≤ 4 * k → s.memWrite off v = s ∧ (s.memRead off).1 = 0#32)

/-- 20_memory R87: a FREQ write while IDLE stores all 32 bits, performs inv-all and changes nothing else; SYM_COUNT and
TOTAL stay. -/
def Obligations.FreqWriteInvalidates : Prop :=
  ∀ (s : State) (off v : Word) (b : Byte), s.phase = .idle → locate off = .freq b →
    ∃ F, s.memWrite off v =
        { s with
          freq := F, treeValid := false, codesValid := false, payloadValid := false, treeRoot := 0,
          maxCodeLen := 0#32, payLen := 0#32, pad := 0#32, bitLen := 0#32 } ∧
      Table.at F b = v ∧ ∀ b', b' ≠ b → Table.at F b' = Table.at s.freq b'

/-- 10_state R39, R40, 20_memory R89, R90: the other writes. IRQ_EN takes bit 0 in either PHASE; IN_LEN takes the smaller
of the value and IN_CAP while IDLE; everything that is not writable ignores a write while IDLE. -/
def Obligations.OtherWrites : Prop :=
  ∀ (s : State) (off v : Word),
    (locate off = .reg .irqEn → s.memWrite off v = { s with doneIe := v.getLsbD 0 }) ∧
    (s.params.wf = true → s.phase = .idle → locate off = .reg .inLen →
      ∃ n, s.memWrite off v = { s with inLen := n } ∧ n.toNat = min v.toNat s.params.inCap) ∧
    (s.phase = .idle → locate off ≠ .reg .status → locate off ≠ .reg .irqEn → locate off ≠ .reg .cmd →
      locate off ≠ .reg .inLen → (∀ b, locate off ≠ .freq b) → (∀ i, locate off ≠ .inBuf i) →
      s.memWrite off v = s)

/-! ### The datapath functions -/

/-- 40_datapath R130: Count counts each symbol, its sum is the length, and the present symbols are those of the
input. -/
def Obligations.CountCountsSymbols : Prop :=
  ∀ input : List Byte, input.length ≤ 1048576 →
    (∀ b : Byte, freqOf (countSymbols input) b = input.count b) ∧
    freqSum (countSymbols input) allSymbols = input.length ∧
    (∀ b : Byte, b ∈ present (countSymbols input) ↔ b ∈ input)

/-- 40_datapath R132 to R136: building a queue and pushing keep its contents and establish the heap order; popping a
queue in heap order returns a key that none is less than, and leaves the others, in heap order. -/
def Obligations.HeapPopsTheLeastKey : Prop :=
  (∀ list : List Key, IsHeap (Heap.build list) ∧ (Heap.build list).Perm list) ∧
  (∀ (h : Heap) (j : Key), IsHeap h → IsHeap (Heap.push h j) ∧ (Heap.push h j).Perm (j :: h)) ∧
  (∀ h : Heap, IsHeap h → h ≠ [] →
    ∃ top h', Heap.pop h = .ok (top, h') ∧ h.Perm (top :: h') ∧ IsHeap h' ∧ ∀ k ∈ h, keyLt k top = false)

/-- 40_datapath R140, 60_exceptions R301, R304: BuildTree succeeds on every legal table with a present symbol; it fails
with EMPTY_INPUT on the empty table and with MALFORMED_HEADER at the first symbol, ascending, that breaks the range or
the total; it never meets an empty queue. -/
def Obligations.BuildTreeOutcomes : Prop :=
  ∀ F : Table Word,
    (FreqLegal F → present F ≠ [] → ∃ b, buildTree F = .ok b) ∧
    (present F = [] → buildTree F = .error (.err .emptyInput 0#32)) ∧
    (∀ (pre post : List Byte) (s : Byte), present F = pre ++ s :: post →
      (∀ x ∈ pre, freqOf F x < 2 ^ 31) → freqSum F pre ≤ Config.int32Max →
      (2 ^ 31 ≤ freqOf F s ∨ Config.int32Max < freqSum F pre + freqOf F s) →
      buildTree F = .error (.err .malformedHeader (word s.toNat))) ∧
    (∀ f, buildTree F ≠ .error (.fault f))

/-- 40_datapath R142 (a) to (d), R140, R141: the shape of every built tree, and that each internal node joins the two
waiting entries with the least keys, the lesser on the left. -/
def Obligations.BuiltTreeHasItsShape : Prop :=
  ∀ (F : Table Word) (b : Built), buildTree F = .ok b → TreeOf F b

/-- 40_datapath R150 to R152, 10_state R43, R51: GenCodes of a built tree succeeds; exactly the present symbols have codes;
with two symbols or more each code is the path from the root to the symbol's leaf, 0 to the left and 1 to the right
(90_conflicts C8); the bits past a code are 0; maxlen is the largest length; the codes are prefix-free, full for two symbols or more, and at most n - 1 bits long for two or more (one bit for one). -/
def Obligations.GeneratedCodesAreACode : Prop :=
  ∀ (F : Table Word) (b : Built), buildTree F = .ok b →
    ∃ c, genCodes b.arena b.root = .ok c ∧
      (∀ x : Byte, Table.at c.len x ≠ 0#8 ↔ x ∈ present F) ∧
      (∀ x : Byte, 2 ≤ (present F).length → x ∈ present F → LeafAt b.arena b.root (c.code x) x) ∧
      (∀ x : Byte, (present F) = [x] → c.code x = [false]) ∧
      (∀ (x : Byte) (j : Nat), (Table.at c.len x).toNat ≤ j → (Table.at c.bits x).getLsbD j = false) ∧
      (∀ x : Byte, (Table.at c.len x).toNat ≤ c.maxLen) ∧ (∃ x : Byte, (Table.at c.len x).toNat = c.maxLen) ∧
      c.PrefixFree ∧
      (2 ≤ (present F).length → c.kraft = 2 ^ 255) ∧
      (∀ x : Byte, 2 ≤ (present F).length → (Table.at c.len x).toNat ≤ (present F).length - 1) ∧
      c.maxLen ≤ 255

/-- 40_datapath R151: a tree that is one leaf gives its symbol the code "0" and no other symbol a code. -/
def Obligations.SingleLeafCode : Prop :=
  ∀ (A : Arena) (root : NodeIdx) (s : Byte) (f : Word), A[root] = .leaf s f →
    ∃ c, genCodes A root = .ok c ∧ Table.at c.len s = 1#8 ∧ Table.at c.bits s = 0#256 ∧ c.code s = [false] ∧
      ∀ x : Byte, x ≠ s → Table.at c.len x = 0#8 ∧ Table.at c.bits x = 0#256

/-- 40_datapath R155: EncodeBits concatenates the codes, or reports the first input index whose symbol has none; the
string's length is the sum of the code lengths, at most 255 bits for each input byte. -/
def Obligations.EncodeBitsConcatenates : Prop :=
  ∀ (c : Codes) (input : List Byte),
    ((∀ x ∈ input, Table.at c.len x ≠ 0#8) → ∃ bits, encodeBits c 0 input = .ok bits ∧
      bits = input.flatMap c.code ∧
      bits.length = (input.map fun x => (Table.at c.len x).toNat).sum ∧ bits.length ≤ 255 * input.length) ∧
    (∀ (pre post : List Byte) (x : Byte), input = pre ++ x :: post →
      (∀ y ∈ pre, Table.at c.len y ≠ 0#8) → Table.at c.len x = 0#8 → encodeBits c 0 input = .error pre.length)

/-- 40_datapath R160: the packed length, the padding count, and where each bit of the string goes. -/
def Obligations.PackPutsBitsMsbFirst : Prop :=
  ∀ bits : Bits,
    (packBits bits).length = (bits.length + 7) / 8 ∧ padCount bits = (8 - bits.length % 8) % 8 ∧
    ∀ k i, k < (bits.length + 7) / 8 → i < 8 →
      ((packBits bits).getD k 0#8).getLsbD (7 - i) = bits.getD (8 * k + i) false

/-- 40_datapath R162: unpacking inverts packing, and packing inverts unpacking up to the cleared padding bits. -/
def Obligations.PackUnpackInverse : Prop :=
  (∀ bits : Bits, unpackBits (packBits bits) (padCount bits) = bits) ∧
  (∀ (P : List Byte) (pad : Nat), pad ≤ 7 → (P = [] → pad = 0) →
    padCount (unpackBits P pad) = pad ∧ (packBits (unpackBits P pad)).length = P.length ∧
    ∀ k i, k < P.length → i < 8 →
      ((packBits (unpackBits P pad)).getD k 0#8).getLsbD i =
        (if k + 1 = P.length ∧ i < pad then false else (P.getD k 0#8).getLsbD i))

/-- 40_datapath R166: a tree that is one leaf emits its symbol once per bit, whatever the bits, while they fit. -/
def Obligations.SingleLeafWalk : Prop :=
  ∀ (A : Arena) (root : NodeIdx) (s : Byte) (f : Word) (bits : Bits) (cap : Nat), A[root] = .leaf s f →
    (bits.length ≤ cap → walkBits A root bits cap = .ok (List.replicate bits.length s)) ∧
    (cap < bits.length → walkBits A root bits cap = .error (.capacity, word cap))

/-- 40_datapath R167: walking the unpacked payload of an encoded input gives the input back. -/
def Obligations.WalkInvertsEncode : Prop :=
  ∀ (F : Table Word) (b : Built) (c : Codes) (input : List Byte) (bits : Bits) (cap : Nat),
    buildTree F = .ok b → genCodes b.arena b.root = .ok c → encodeBits c 0 input = .ok bits →
    input.length ≤ cap →
    walkBits b.arena b.root (unpackBits (packBits bits) (padCount bits)) cap = .ok input

/-- 40_datapath R165: the walk's two errors, on an encoded input followed by a proper, non-empty beginning `p` of a code.
Where the input fits, the bits end off the root and the detail is the bit index where the unfinished code began; where
it does not, the symbol that overflows wins, whatever bits follow. -/
def Obligations.WalkReportsErrors : Prop :=
  ∀ (F : Table Word) (b : Built) (c : Codes) (input : List Byte) (bits : Bits) (cap : Nat),
    buildTree F = .ok b → genCodes b.arena b.root = .ok c → encodeBits c 0 input = .ok bits →
    (∀ (x : Byte) (p : Bits), x ∈ present F → p <+: c.code x → p ≠ [] → p ≠ c.code x → input.length ≤ cap →
      walkBits b.arena b.root (bits ++ p) cap = .error (.truncatedStream, word bits.length)) ∧
    (∀ p : Bits, cap < input.length → walkBits b.arena b.root (bits ++ p) cap = .error (.capacity, word cap))

/-- 40_datapath R170, 00_scope R13, 20_memory R91 (b), 10_state R49: the length of a blob and its fields in order, byte `i`
of each int32 field being bits [8i+7:8i] of its value; the header's symbols are exactly those with a non-zero entry, in
strictly ascending order. -/
def Obligations.BlobLayout : Prop :=
  ∀ (F : Table Word) (P : List Byte) (pad : Nat),
    ((present F).Pairwise fun a b => a.toNat < b.toNat) ∧ (∀ x : Byte, x ∈ present F ↔ Table.at F x ≠ 0#32) ∧
    (serialize F P pad).length = 22 + 5 * (present F).length + P.length ∧
    (∀ i, i < 4 →
      (serialize F P pad)[i]? = some ((BitVec.ofNat 32 (present F).length).extractLsb' (8 * i) 8)) ∧
    (∀ (n : Nat) (s : Byte), (present F)[n]? = some s →
      (serialize F P pad)[4 + 5 * n]? = some s ∧
      ∀ i, i < 4 → (serialize F P pad)[4 + 5 * n + 1 + i]? = some ((Table.at F s).extractLsb' (8 * i) 8)) ∧
    ((serialize F P pad).drop (4 + 5 * (present F).length)).take 10 =
      [0x48#8, 0x45#8, 0x41#8, 0x44#8, 0x45#8, 0x52#8, 0x5F#8, 0x45#8, 0x4E#8, 0x44#8] ∧
    (∀ i, i < 4 → (serialize F P pad)[14 + 5 * (present F).length + i]? =
      some ((BitVec.ofNat 32 P.length).extractLsb' (8 * i) 8)) ∧
    (∀ i, i < 4 → (serialize F P pad)[18 + 5 * (present F).length + i]? =
      some ((BitVec.ofNat 32 pad).extractLsb' (8 * i) 8)) ∧
    (serialize F P pad).drop (22 + 5 * (present F).length) = P

/-- 40_datapath R172: parsing a serialized blob gives back what was serialized, and a blob that parses is re-serialized
byte for byte. -/
def Obligations.ParseInvertsSerialize : Prop :=
  (∀ (F : Table Word) (P : List Byte) (pad : Nat),
    FreqLegal F → P.length ≤ Config.int32Max → pad ≤ 7 → (P = [] → pad = 0) → (present F = [] → P = []) →
    parseBlob (serialize F P pad) =
      .ok { freq := F, count := (present F).length, total := freqSum F allSymbols, payload := P, pad := pad }) ∧
  (∀ (B : List Byte) (r : Parsed), parseBlob B = .ok r → serialize r.freq r.payload r.pad = B)

/-! ### The commands: what each does, and its frame. Every field that a conclusion's record does not name is unchanged. -/

/-- 43_control R230: NOP only completes. -/
def Obligations.NopOnlyCompletes : Prop :=
  ∀ s : State, exec .nop s = .next { s with phase := .idle, done := true, err := .none, errInfo := 0#32 }

/-- 43_control R231: CLEAR gives the tables and the derived registers their reset values and changes nothing else. -/
def Obligations.ClearZeroesTheDatapath : Prop :=
  ∀ s : State, ∃ F L B N,
    exec .clear s = .next { s with
      freq := F, codeLen := L, codeBits := B, node := N,
      treeValid := false, codesValid := false, payloadValid := false, treeRoot := 0, maxCodeLen := 0#32,
      payLen := 0#32, pad := 0#32, bitLen := 0#32, outLen := 0#32, symCount := 0#32, total := 0#32,
      phase := .idle, done := true, err := .none, errInfo := 0#32 } ∧
    (∀ b : Byte, Table.at F b = 0#32 ∧ Table.at L b = 0#8 ∧ Table.at B b = 0#256) ∧
    (∀ j : NodeIdx, N[j].word0 = 0#32 ∧ N[j].word1 = 0#32)

/-- 41_encode R180: ANALYZE. FREQ counts the input's symbols; SYM_COUNT is the number of symbols that occur. -/
def Obligations.AnalyzeCountsTheInput : Prop :=
  ∀ s : State, ∃ F,
    exec .analyze s = .next { s with
      freq := F, symCount := word (allSymbols.filter fun b => s.input.contains b).length, total := s.inLen,
      treeValid := false, codesValid := false, payloadValid := false, treeRoot := 0, maxCodeLen := 0#32,
      payLen := 0#32, pad := 0#32, bitLen := 0#32,
      phase := .idle, done := true, err := .none, errInfo := 0#32 } ∧
    ∀ b : Byte, Table.at F b = word (s.input.count b)

/-- 41_encode R181: BUILD_TREE. On a legal table with a present symbol it completes with BuildTree's tree, HEAP's contents
unspecified; on the empty table it reports EMPTY_INPUT, on an illegal one MALFORMED_HEADER with the first symbol at which
a check fails, NODE unchanged. That HEAP too is unchanged there is the model's choice (notes/assumptions/4.md). -/
def Obligations.BuildTreeBuildsOrReports : Prop :=
  ∀ s : State,
    (FreqLegal s.freq → present s.freq ≠ [] →
      ∃ b hp d, buildTree s.freq = .ok b ∧
        exec .buildTree s = .next { s with
          node := b.arena, treeRoot := b.root, symCount := word b.count, total := word b.total,
          treeValid := true, codesValid := false, maxCodeLen := 0#32, heap := hp, draws := d,
          phase := .idle, done := true, err := .none, errInfo := 0#32 }) ∧
    (present s.freq = [] →
      exec .buildTree s = .next { s with
        treeValid := false, treeRoot := 0, codesValid := false, maxCodeLen := 0#32, symCount := 0#32,
        total := 0#32, phase := .idle, done := true, err := .emptyInput, errInfo := 0#32 }) ∧
    (∀ (pre post : List Byte) (x : Byte), present s.freq = pre ++ x :: post →
      (∀ y ∈ pre, freqOf s.freq y < 2 ^ 31) → freqSum s.freq pre ≤ Config.int32Max →
      (2 ^ 31 ≤ freqOf s.freq x ∨ Config.int32Max < freqSum s.freq pre + freqOf s.freq x) →
      exec .buildTree s = .next { s with
        treeValid := false, treeRoot := 0, codesValid := false, maxCodeLen := 0#32, symCount := 0#32,
        total := 0#32, phase := .idle, done := true, err := .malformedHeader, errInfo := word x.toNat })

/-- 41_encode R182: GEN_CODES with a valid tree completes. -/
def Obligations.GenCodesCompletes : Prop :=
  ∀ s : State, s.Inv → s.treeValid = true →
    ∃ c, genCodes s.node s.treeRoot = .ok c ∧
      exec .genCodes s = .next { s with
        codeLen := c.len, codeBits := c.bits, maxCodeLen := word c.maxLen, codesValid := true,
        phase := .idle, done := true, err := .none, errInfo := 0#32 }

/-- 41_encode R182 to R184, 42_decode R211, 60_exceptions R305: a command without its valid bits reports SEQUENCE with
the missing bits and changes nothing else, OUT_LEN included (notes/assumptions/9.md). -/
def Obligations.MissingPrerequisiteIsSequence : Prop :=
  ∀ s : State,
    (s.treeValid = false → exec .genCodes s = .next { s with
      phase := .idle, done := true, err := .sequence, errInfo := 0x10#32 }) ∧
    (s.codesValid = false → exec .pack s = .next { s with
      phase := .idle, done := true, err := .sequence, errInfo := 0x20#32 }) ∧
    (s.payloadValid = false → exec .serialize s = .next { s with
      phase := .idle, done := true, err := .sequence, errInfo := 0x40#32 }) ∧
    (s.treeValid = false ∨ s.payloadValid = false → exec .walk s = .next { s with
      phase := .idle, done := true, err := .sequence,
      errInfo := if s.treeValid then 0x40#32 else if s.payloadValid then 0x10#32 else 0x50#32 })

/-- 41_encode R183: PACK with valid codes. If every input byte has a code and the payload fits it completes; else it
reports UNKNOWN_SYMBOL with the first such index, or, where every byte has a code, CAPACITY with the length needed. The
bytes of PAYLOAD past PAY_LEN, and all of them after an error, are unspecified. -/
def Obligations.PackPacksOrReports : Prop :=
  ∀ s : State, s.codesValid = true →
    ((∀ x ∈ s.input, Table.at s.codeLen x ≠ 0#8) →
      packedLen (s.input.flatMap s.codes.code) ≤ s.params.payCap →
      ∃ pm d, exec .pack s = .next { s with
          payload := pm, payLen := word (packedLen (s.input.flatMap s.codes.code)),
          pad := word (padCount (s.input.flatMap s.codes.code)),
          bitLen := word (s.input.flatMap s.codes.code).length, payloadValid := true, draws := d,
          phase := .idle, done := true, err := .none, errInfo := 0#32 } ∧
        pm.bytes (packedLen (s.input.flatMap s.codes.code)) = packBits (s.input.flatMap s.codes.code)) ∧
    (∀ (pre post : List Byte) (x : Byte), s.input = pre ++ x :: post →
      (∀ y ∈ pre, Table.at s.codeLen y ≠ 0#8) → Table.at s.codeLen x = 0#8 →
      ∃ pm d, exec .pack s = .next { s with
        payload := pm, payloadValid := false, payLen := 0#32, pad := 0#32, bitLen := 0#32, draws := d,
        phase := .idle, done := true, err := .unknownSymbol, errInfo := word pre.length }) ∧
    ((∀ x ∈ s.input, Table.at s.codeLen x ≠ 0#8) →
      s.params.payCap < packedLen (s.input.flatMap s.codes.code) →
      ∃ pm d, exec .pack s = .next { s with
        payload := pm, payloadValid := false, payLen := 0#32, pad := 0#32, bitLen := 0#32, draws := d,
        phase := .idle, done := true, err := .capacity,
        errInfo := word (packedLen (s.input.flatMap s.codes.code)) })

/-- 41_encode R184: SERIALIZE with a valid payload puts the blob in OUT_BUF, or reports CAPACITY with the length needed;
the bytes of OUT_BUF past OUT_LEN are unspecified. -/
def Obligations.SerializeWritesBlobOrReports : Prop :=
  ∀ s : State, s.payloadValid = true →
    ((serialize s.freq s.packed s.pad.toNat).length ≤ s.params.outCap →
      ∃ om d, exec .serialize s = .next { s with
          outBuf := om, outLen := word (serialize s.freq s.packed s.pad.toNat).length, draws := d,
          phase := .idle, done := true, err := .none, errInfo := 0#32 } ∧
        om.bytes (serialize s.freq s.packed s.pad.toNat).length = serialize s.freq s.packed s.pad.toNat) ∧
    (s.params.outCap < (serialize s.freq s.packed s.pad.toNat).length →
      ∃ om d, exec .serialize s = .next { s with
        outBuf := om, outLen := 0#32, draws := d,
        phase := .idle, done := true, err := .capacity,
        errInfo := word (serialize s.freq s.packed s.pad.toNat).length })

/-- 41_encode R185, 95_test_vectors 2.6: ENCODE of a non-empty input. Where payload and blob fit it completes with every
step's result; a payload that does not fit reports CAPACITY with its length, keeping the results before PACK; a blob that
does not fit reports CAPACITY with its length, keeping the results before SERIALIZE. That OUT_LEN is unchanged when PACK
fails is the model's reading (notes/assumptions/9.md). -/
def Obligations.EncodeCompletes : Prop :=
  ∀ (s : State) (b : Built) (c : Codes) (bits : Bits), s.params.wf = true → s.inLen ≠ 0#32 →
    buildTree (countSymbols s.input) = .ok b → genCodes b.arena b.root = .ok c →
    encodeBits c 0 s.input = .ok bits →
    (packedLen bits ≤ s.params.payCap →
      (serialize (countSymbols s.input) (packBits bits) (padCount bits)).length ≤ s.params.outCap →
      ∃ pm om hp d, exec .encode s = .next { s with
          freq := countSymbols s.input, node := b.arena, treeRoot := b.root, symCount := word b.count,
          total := word b.total, codeLen := c.len, codeBits := c.bits, maxCodeLen := word c.maxLen,
          payload := pm, payLen := word (packedLen bits), pad := word (padCount bits), bitLen := word bits.length,
          outBuf := om,
          outLen := word (serialize (countSymbols s.input) (packBits bits) (padCount bits)).length,
          treeValid := true, codesValid := true, payloadValid := true, heap := hp, draws := d,
          phase := .idle, done := true, err := .none, errInfo := 0#32 } ∧
        pm.bytes (packedLen bits) = packBits bits ∧
        om.bytes (serialize (countSymbols s.input) (packBits bits) (padCount bits)).length =
          serialize (countSymbols s.input) (packBits bits) (padCount bits)) ∧
    (s.params.payCap < packedLen bits →
      ∃ pm hp d, exec .encode s = .next { s with
        freq := countSymbols s.input, node := b.arena, treeRoot := b.root, symCount := word b.count,
        total := word b.total, codeLen := c.len, codeBits := c.bits, maxCodeLen := word c.maxLen,
        payload := pm, payLen := 0#32, pad := 0#32, bitLen := 0#32,
        treeValid := true, codesValid := true, payloadValid := false, heap := hp, draws := d,
        phase := .idle, done := true, err := .capacity, errInfo := word (packedLen bits) }) ∧
    (packedLen bits ≤ s.params.payCap →
      s.params.outCap < (serialize (countSymbols s.input) (packBits bits) (padCount bits)).length →
      ∃ pm om hp d, exec .encode s = .next { s with
          freq := countSymbols s.input, node := b.arena, treeRoot := b.root, symCount := word b.count,
          total := word b.total, codeLen := c.len, codeBits := c.bits, maxCodeLen := word c.maxLen,
          payload := pm, payLen := word (packedLen bits), pad := word (padCount bits), bitLen := word bits.length,
          outBuf := om, outLen := 0#32,
          treeValid := true, codesValid := true, payloadValid := true, heap := hp, draws := d,
          phase := .idle, done := true, err := .capacity,
          errInfo := word (serialize (countSymbols s.input) (packBits bits) (padCount bits)).length } ∧
        pm.bytes (packedLen bits) = packBits bits)

/-- 41_encode R185: from a state a run reaches, ENCODE always completes and its only error is CAPACITY. -/
def Obligations.EncodeFailsOnlyForCapacity : Prop :=
  ∀ s : State, s.Inv → ∃ t, exec .encode s = .next t ∧ (t.err = .none ∨ t.err = .capacity)

/-- 41_encode R186: ENCODE of the empty input writes the 22-byte empty blob. PAYLOAD's bytes, all past PAY_LEN = 0, are
unspecified (notes/assumptions/22.md). -/
def Obligations.EncodeOfEmptyInput : Prop :=
  ∀ s : State, s.params.wf = true → s.inLen = 0#32 →
    ∃ F pm om d, exec .encode s = .next { s with
        freq := F, symCount := 0#32, total := 0#32,
        treeValid := false, codesValid := false, treeRoot := 0, maxCodeLen := 0#32,
        payloadValid := true, payload := pm, payLen := 0#32, pad := 0#32, bitLen := 0#32,
        outBuf := om, outLen := 22#32, draws := d,
        phase := .idle, done := true, err := .none, errInfo := 0#32 } ∧
      (∀ b : Byte, Table.at F b = 0#32) ∧
      om.bytes 22 =
        [0#8, 0#8, 0#8, 0#8, 0x48#8, 0x45#8, 0x41#8, 0x44#8, 0x45#8, 0x52#8, 0x5F#8, 0x45#8, 0x4E#8, 0x44#8,
         0#8, 0#8, 0#8, 0#8, 0#8, 0#8, 0#8, 0#8]

/-- 41_encode R185: the blob ENCODE makes depends on nothing but the input, and whether it succeeds on nothing but the
input and the capacities. -/
def Obligations.EncodeDependsOnlyOnInput : Prop :=
  ∀ s s' t t' : State, s.inLen = s'.inLen → s.input = s'.input → s.params.wf = true → s'.params.wf = true →
    exec .encode s = .next t → exec .encode s' = .next t' →
    (t.err = .none → t'.err = .none → t.output = t'.output) ∧
    (s.params = s'.params → t.err = t'.err ∧ t.errInfo = t'.errInfo)

/-- 42_decode R210: PARSE. A blob that parses and whose payload fits gives FREQ and PAYLOAD; else MALFORMED_HEADER with
the offset, before CAPACITY with the payload length. The bytes of PAYLOAD past PAY_LEN, and FREQ and PAYLOAD after an
error, are unspecified. -/
def Obligations.ParseLoadsOrReports : Prop :=
  ∀ s : State,
    (∀ r, parseBlob s.input = .ok r → r.payload.length ≤ s.params.payCap →
      ∃ pm d, exec .parse s = .next { s with
          freq := r.freq, symCount := word r.count, total := word r.total,
          payload := pm, payLen := word r.payload.length, pad := word r.pad,
          bitLen := word (8 * r.payload.length - r.pad),
          treeValid := false, codesValid := false, payloadValid := true, treeRoot := 0, maxCodeLen := 0#32,
          draws := d, phase := .idle, done := true, err := .none, errInfo := 0#32 } ∧
        pm.bytes r.payload.length = r.payload) ∧
    (∀ (e : ErrCode) (info : Word),
      ((∃ o, parseBlob s.input = .error o ∧ e = .malformedHeader ∧ info = word o) ∨
        (∃ r, parseBlob s.input = .ok r ∧ s.params.payCap < r.payload.length ∧ e = .capacity ∧
          info = word r.payload.length)) →
      ∃ F pm d, exec .parse s = .next { s with
        freq := F, payload := pm, symCount := 0#32, total := 0#32,
        treeValid := false, codesValid := false, payloadValid := false, treeRoot := 0, maxCodeLen := 0#32,
        payLen := 0#32, pad := 0#32, bitLen := 0#32, draws := d,
        phase := .idle, done := true, err := e, errInfo := info })

/-- 40_datapath R171: every check of ParseBlob with its offset, each on a blob whose earlier fields pass. The symbol count:
missing, or out of 0..256. An entry after `n` good ones, of a count `k`: cut short, its symbol not above the last one,
its frequency not positive, or the total too large. The marker. The packed length: missing, negative, or not 0 without
symbols. The padding: missing, out of 0..7, or not 0 without payload. The payload's length. A field of bytes `b0` to `b3`
is the word `b3 ++ b2 ++ b1 ++ b0`, negative exactly if its bit 31 is set (00_scope R13). -/
def Obligations.ParseRejectsMalformedBlobs : Prop :=
  (∀ B : List Byte, B.length < 4 → parseBlob B = .error 0) ∧
  (∀ (b0 b1 b2 b3 : Byte) (k : Word) (rest : List Byte), k = b3 ++ b2 ++ b1 ++ b0 →
    k.getLsbD 31 = true ∨ 256 < k.toNat → parseBlob (b0 :: b1 :: b2 :: b3 :: rest) = .error 0) ∧
  (∀ (F : Table Word) (k : Nat) (tail : List Byte), FreqLegal F → (present F).length < k → k ≤ 256 →
    tail.length < 5 → parseBlob (blobHead k F ++ tail) = .error (4 + 5 * (present F).length)) ∧
  (∀ (F : Table Word) (k : Nat) (x b0 b1 b2 b3 : Byte) (f : Word) (rest : List Byte), FreqLegal F →
    (present F).length < k → k ≤ 256 → f = b3 ++ b2 ++ b1 ++ b0 →
    ((∃ y ∈ present F, x.toNat ≤ y.toNat) →
      parseBlob (blobHead k F ++ x :: b0 :: b1 :: b2 :: b3 :: rest) = .error (4 + 5 * (present F).length)) ∧
    ((∀ y ∈ present F, y.toNat < x.toNat) →
      f.getLsbD 31 = true ∨ f = 0#32 ∨ Config.int32Max < freqSum F allSymbols + f.toNat →
      parseBlob (blobHead k F ++ x :: b0 :: b1 :: b2 :: b3 :: rest) = .error (4 + 5 * (present F).length + 1))) ∧
  (∀ (F : Table Word) (tail : List Byte), FreqLegal F → tail.take 10 ≠ Config.marker →
    parseBlob (blobHead (present F).length F ++ tail) = .error (4 + 5 * (present F).length)) ∧
  (∀ (F : Table Word) (tail : List Byte), FreqLegal F → tail.length < 4 →
    parseBlob (blobHead (present F).length F ++ Config.marker ++ tail) =
      .error (4 + 5 * (present F).length + 10)) ∧
  (∀ (F : Table Word) (b0 b1 b2 b3 : Byte) (m : Word) (rest : List Byte), FreqLegal F → m = b3 ++ b2 ++ b1 ++ b0 →
    m.getLsbD 31 = true ∨ (present F = [] ∧ m ≠ 0#32) →
    parseBlob (blobHead (present F).length F ++ Config.marker ++ b0 :: b1 :: b2 :: b3 :: rest) =
      .error (4 + 5 * (present F).length + 10)) ∧
  (∀ (F : Table Word) (m : Word) (tail : List Byte), FreqLegal F → m.getLsbD 31 = false →
    (present F = [] → m = 0#32) → tail.length < 4 →
    parseBlob (blobHead (present F).length F ++ Config.marker ++ int32Field m ++ tail) =
      .error (4 + 5 * (present F).length + 14)) ∧
  (∀ (F : Table Word) (m : Word) (b0 b1 b2 b3 : Byte) (pad : Word) (P : List Byte), FreqLegal F →
    m.getLsbD 31 = false → (present F = [] → m = 0#32) → pad = b3 ++ b2 ++ b1 ++ b0 →
    pad.getLsbD 31 = true ∨ 7 < pad.toNat ∨ (m = 0#32 ∧ pad ≠ 0#32) →
    parseBlob (blobHead (present F).length F ++ Config.marker ++ int32Field m ++ b0 :: b1 :: b2 :: b3 :: P) =
      .error (4 + 5 * (present F).length + 14)) ∧
  (∀ (F : Table Word) (P : List Byte) (m pad : Word), FreqLegal F → m.getLsbD 31 = false → pad.toNat ≤ 7 →
    (m = 0#32 → pad = 0#32) → (present F = [] → m = 0#32) → P.length ≠ m.toNat →
    parseBlob (blobHead (present F).length F ++ Config.marker ++ int32Field m ++ int32Field pad ++ P) =
      .error (4 + 5 * (present F).length + 18))

/-- 42_decode R211: WALK with its valid bits gives the walk's output, or reports the walk's error with OUT_LEN 0; the
bytes of OUT_BUF past OUT_LEN are unspecified. -/
def Obligations.WalkDecodesOrReports : Prop :=
  ∀ s : State, s.treeValid = true → s.payloadValid = true →
    (∀ out, walkBits s.node s.treeRoot (unpackBits s.packed s.pad.toNat) s.params.outCap = .ok out →
      ∃ om d, exec .walk s = .next { s with
          outBuf := om, outLen := word out.length, draws := d,
          phase := .idle, done := true, err := .none, errInfo := 0#32 } ∧
        om.bytes out.length = out) ∧
    (∀ e info, walkBits s.node s.treeRoot (unpackBits s.packed s.pad.toNat) s.params.outCap = .error (e, info) →
      ∃ om d, exec .walk s = .next { s with
        outBuf := om, outLen := 0#32, draws := d,
        phase := .idle, done := true, err := e, errInfo := info })

/-- 42_decode R212: DECODE. A blob with a symbol, whose payload and output fit, gives every step's result; a blob of no
symbol gives an empty output without building a tree; a blob that does not parse or whose payload does not fit reports
PARSE's error; a walk that fails reports the walk's error and keeps the results of PARSE and BUILD_TREE. That OUT_LEN is
unchanged after PARSE's errors is the model's reading (notes/assumptions/9.md: R41's summary says 0); that OUT_BUF is
drawn anew for a blob of no symbol is its choice (22.md). -/
def Obligations.DecodeDecodesOrReports : Prop :=
  ∀ s : State, s.params.wf = true →
    (∀ (r : Parsed) (b : Built) (out : List Byte), parseBlob s.input = .ok r →
      r.payload.length ≤ s.params.payCap → r.count ≠ 0 → buildTree r.freq = .ok b →
      walkBits b.arena b.root (unpackBits r.payload r.pad) s.params.outCap = .ok out →
      ∃ pm om hp d, exec .decode s = .next { s with
          freq := r.freq, symCount := word b.count, total := word b.total, node := b.arena, treeRoot := b.root,
          payload := pm, payLen := word r.payload.length, pad := word r.pad,
          bitLen := word (8 * r.payload.length - r.pad), outBuf := om, outLen := word out.length,
          treeValid := true, codesValid := false, payloadValid := true, maxCodeLen := 0#32,
          heap := hp, draws := d, phase := .idle, done := true, err := .none, errInfo := 0#32 } ∧
        pm.bytes r.payload.length = r.payload ∧ om.bytes out.length = out) ∧
    (∀ r : Parsed, parseBlob s.input = .ok r → r.count = 0 →
      ∃ pm om d, exec .decode s = .next { s with
        freq := r.freq, symCount := 0#32, total := word r.total,
        payload := pm, payLen := 0#32, pad := 0#32, bitLen := 0#32, outBuf := om, outLen := 0#32,
        treeValid := false, codesValid := false, payloadValid := true, treeRoot := 0, maxCodeLen := 0#32,
        draws := d, phase := .idle, done := true, err := .none, errInfo := 0#32 }) ∧
    (∀ o, parseBlob s.input = .error o →
      ∃ F pm d, exec .decode s = .next { s with
        freq := F, payload := pm, symCount := 0#32, total := 0#32,
        treeValid := false, codesValid := false, payloadValid := false, treeRoot := 0, maxCodeLen := 0#32,
        payLen := 0#32, pad := 0#32, bitLen := 0#32, draws := d,
        phase := .idle, done := true, err := .malformedHeader, errInfo := word o }) ∧
    (∀ r : Parsed, parseBlob s.input = .ok r → s.params.payCap < r.payload.length →
      ∃ F pm d, exec .decode s = .next { s with
        freq := F, payload := pm, symCount := 0#32, total := 0#32,
        treeValid := false, codesValid := false, payloadValid := false, treeRoot := 0, maxCodeLen := 0#32,
        payLen := 0#32, pad := 0#32, bitLen := 0#32, draws := d,
        phase := .idle, done := true, err := .capacity, errInfo := word r.payload.length }) ∧
    (∀ (r : Parsed) (b : Built) (e : ErrCode) (info : Word), parseBlob s.input = .ok r →
      r.payload.length ≤ s.params.payCap → r.count ≠ 0 → buildTree r.freq = .ok b →
      walkBits b.arena b.root (unpackBits r.payload r.pad) s.params.outCap = .error (e, info) →
      ∃ pm om hp d, exec .decode s = .next { s with
          freq := r.freq, symCount := word b.count, total := word b.total, node := b.arena, treeRoot := b.root,
          payload := pm, payLen := word r.payload.length, pad := word r.pad,
          bitLen := word (8 * r.payload.length - r.pad), outBuf := om, outLen := 0#32,
          treeValid := true, codesValid := false, payloadValid := true, maxCodeLen := 0#32,
          heap := hp, draws := d, phase := .idle, done := true, err := e, errInfo := info } ∧
        pm.bytes r.payload.length = r.payload)

/-- The round trip at the command level (40_datapath R167, 42_decode R212): where ENCODE succeeds, DECODE of its output,
from any state whose input is that blob and whose capacities hold the payload and the output, succeeds and gives the
original input. -/
def Obligations.DecodeInvertsEncode : Prop :=
  ∀ s t u : State, s.Inv → exec .encode s = .next t → t.err = .none →
    u.params.wf = true → u.input = t.output → t.payLen.toNat ≤ u.params.payCap →
    s.inLen.toNat ≤ u.params.outCap →
    ∃ v, exec .decode u = .next v ∧ v.err = .none ∧ v.output = s.input

/-! ### Reads while BUSY, and the TREE window -/

/-- 20_memory R85, 70_reset R361: while BUSY a read of a RESULT_SET location gives the value drawn at this read and only
uses up the draw; every other read gives what it gives while IDLE (STATUS: the status word) and changes nothing.
RESULT_SET is the registers 0x018 to 0x038 and every window but IN_BUF's. The draw is the model's form of the
unspecified value (notes/assumptions/1.md, 21.md). -/
def Obligations.BusyReadsHideResults : Prop :=
  ∀ (s : State) (off : Word) (a : Nat), s.phase = .busy → a = off.toNat / 4 * 4 →
    ((0x018 ≤ a ∧ a ≤ 0x038) ∨ (0x400 ≤ a ∧ a < 0xC00) ∨ (0x1000 ≤ a ∧ a < 0x3000) ∨
        (0x4000 ≤ a ∧ a < 0x5000) ∨ (0x200000 ≤ a ∧ a < 0x400000) →
      s.memRead off = (Config.freeWord s.draws 0, { s with draws := s.draws + 1 })) ∧
    (a < 0x018 ∨ (0x03C ≤ a ∧ a < 0x400) ∨ (0xC00 ≤ a ∧ a < 0x1000) ∨ (0x3000 ≤ a ∧ a < 0x4000) ∨
        (0x5000 ≤ a ∧ a < 0x200000) ∨ 0x400000 ≤ a →
      (s.memRead off).2 = s ∧ (a = 0x00C → (s.memRead off).1 = s.status) ∧
        (a ≠ 0x00C → (s.memRead off).1 = ({ s with phase := .idle }.memRead off).1))

/-- 10_state R50, 20_memory R82: while IDLE the TREE window shows a leaf as its symbol and frequency, and an internal
node as KIND [31] = 1, RIGHT [24:16], LEFT [8:0], the reserved bits 0, and its frequency. -/
def Obligations.TreeWindowShowsNodes : Prop :=
  ∀ (s : State) (off : Word) (j : NodeIdx), s.phase = .idle →
    (off.toNat = 0x4000 + 8 * j.val →
      (∀ b f, s.node[j] = .leaf b f → (s.memRead off).1 = b.zeroExtend 32) ∧
      (∀ f l r, s.node[j] = .internal f l r →
        (s.memRead off).1.getLsbD 31 = true ∧ (s.memRead off).1.extractLsb' 25 6 = 0#6 ∧
        ((s.memRead off).1.extractLsb' 16 9).toNat = r.val ∧ (s.memRead off).1.extractLsb' 9 7 = 0#7 ∧
        ((s.memRead off).1.extractLsb' 0 9).toNat = l.val)) ∧
    (off.toNat = 0x4000 + 8 * j.val + 4 →
      (∀ b f, s.node[j] = .leaf b f → (s.memRead off).1 = f) ∧
      (∀ f l r, s.node[j] = .internal f l r → (s.memRead off).1 = f))
end

