-- ==== Sys2Proof/Laws/State.lean ====
section
/-! SUPPORT. What each state update does to each field, so that no proof unfolds a record update. -/

namespace Sys2Proof.Machine

variable (s : State)

/-! ### raise -/

@[simp] theorem State.raise_params (e : ErrCode) (v : Word) : (s.raise e v).params = s.params := rfl
@[simp] theorem State.raise_phase (e : ErrCode) (v : Word) : (s.raise e v).phase = s.phase := rfl
@[simp] theorem State.raise_pending (e : ErrCode) (v : Word) : (s.raise e v).pending = s.pending := rfl
@[simp] theorem State.raise_done (e : ErrCode) (v : Word) : (s.raise e v).done = s.done := rfl
@[simp] theorem State.raise_wdrop (e : ErrCode) (v : Word) : (s.raise e v).wdrop = s.wdrop := rfl
@[simp] theorem State.raise_treeValid (e : ErrCode) (v : Word) : (s.raise e v).treeValid = s.treeValid := rfl
@[simp] theorem State.raise_codesValid (e : ErrCode) (v : Word) : (s.raise e v).codesValid = s.codesValid := rfl
@[simp] theorem State.raise_payloadValid (e : ErrCode) (v : Word) : (s.raise e v).payloadValid = s.payloadValid := rfl
@[simp] theorem State.raise_err (e : ErrCode) (v : Word) : (s.raise e v).err = e := rfl
@[simp] theorem State.raise_doneIe (e : ErrCode) (v : Word) : (s.raise e v).doneIe = s.doneIe := rfl
@[simp] theorem State.raise_inLen (e : ErrCode) (v : Word) : (s.raise e v).inLen = s.inLen := rfl
@[simp] theorem State.raise_outLen (e : ErrCode) (v : Word) : (s.raise e v).outLen = s.outLen := rfl
@[simp] theorem State.raise_payLen (e : ErrCode) (v : Word) : (s.raise e v).payLen = s.payLen := rfl
@[simp] theorem State.raise_pad (e : ErrCode) (v : Word) : (s.raise e v).pad = s.pad := rfl
@[simp] theorem State.raise_bitLen (e : ErrCode) (v : Word) : (s.raise e v).bitLen = s.bitLen := rfl
@[simp] theorem State.raise_symCount (e : ErrCode) (v : Word) : (s.raise e v).symCount = s.symCount := rfl
@[simp] theorem State.raise_total (e : ErrCode) (v : Word) : (s.raise e v).total = s.total := rfl
@[simp] theorem State.raise_treeRoot (e : ErrCode) (v : Word) : (s.raise e v).treeRoot = s.treeRoot := rfl
@[simp] theorem State.raise_maxCodeLen (e : ErrCode) (v : Word) : (s.raise e v).maxCodeLen = s.maxCodeLen := rfl
@[simp] theorem State.raise_errInfo (e : ErrCode) (v : Word) : (s.raise e v).errInfo = v := rfl
@[simp] theorem State.raise_inBuf (e : ErrCode) (v : Word) : (s.raise e v).inBuf = s.inBuf := rfl
@[simp] theorem State.raise_freq (e : ErrCode) (v : Word) : (s.raise e v).freq = s.freq := rfl
@[simp] theorem State.raise_node (e : ErrCode) (v : Word) : (s.raise e v).node = s.node := rfl
@[simp] theorem State.raise_codeLen (e : ErrCode) (v : Word) : (s.raise e v).codeLen = s.codeLen := rfl
@[simp] theorem State.raise_codeBits (e : ErrCode) (v : Word) : (s.raise e v).codeBits = s.codeBits := rfl
@[simp] theorem State.raise_payload (e : ErrCode) (v : Word) : (s.raise e v).payload = s.payload := rfl
@[simp] theorem State.raise_outBuf (e : ErrCode) (v : Word) : (s.raise e v).outBuf = s.outBuf := rfl
@[simp] theorem State.raise_heap (e : ErrCode) (v : Word) : (s.raise e v).heap = s.heap := rfl
@[simp] theorem State.raise_draws (e : ErrCode) (v : Word) : (s.raise e v).draws = s.draws := rfl
@[simp] theorem State.raise_prog (e : ErrCode) (v : Word) : (s.raise e v).prog = s.prog := rfl
@[simp] theorem State.raise_sched (e : ErrCode) (v : Word) : (s.raise e v).sched = s.sched := rfl
@[simp] theorem State.raise_rdata (e : ErrCode) (v : Word) : (s.raise e v).rdata = s.rdata := rfl

/-! ### succeed -/

@[simp] theorem State.succeed_params : (s.succeed).params = s.params := rfl
@[simp] theorem State.succeed_phase : (s.succeed).phase = s.phase := rfl
@[simp] theorem State.succeed_pending : (s.succeed).pending = s.pending := rfl
@[simp] theorem State.succeed_done : (s.succeed).done = s.done := rfl
@[simp] theorem State.succeed_wdrop : (s.succeed).wdrop = s.wdrop := rfl
@[simp] theorem State.succeed_treeValid : (s.succeed).treeValid = s.treeValid := rfl
@[simp] theorem State.succeed_codesValid : (s.succeed).codesValid = s.codesValid := rfl
@[simp] theorem State.succeed_payloadValid : (s.succeed).payloadValid = s.payloadValid := rfl
@[simp] theorem State.succeed_err : (s.succeed).err = .none := rfl
@[simp] theorem State.succeed_doneIe : (s.succeed).doneIe = s.doneIe := rfl
@[simp] theorem State.succeed_inLen : (s.succeed).inLen = s.inLen := rfl
@[simp] theorem State.succeed_outLen : (s.succeed).outLen = s.outLen := rfl
@[simp] theorem State.succeed_payLen : (s.succeed).payLen = s.payLen := rfl
@[simp] theorem State.succeed_pad : (s.succeed).pad = s.pad := rfl
@[simp] theorem State.succeed_bitLen : (s.succeed).bitLen = s.bitLen := rfl
@[simp] theorem State.succeed_symCount : (s.succeed).symCount = s.symCount := rfl
@[simp] theorem State.succeed_total : (s.succeed).total = s.total := rfl
@[simp] theorem State.succeed_treeRoot : (s.succeed).treeRoot = s.treeRoot := rfl
@[simp] theorem State.succeed_maxCodeLen : (s.succeed).maxCodeLen = s.maxCodeLen := rfl
@[simp] theorem State.succeed_errInfo : (s.succeed).errInfo = 0#32 := rfl
@[simp] theorem State.succeed_inBuf : (s.succeed).inBuf = s.inBuf := rfl
@[simp] theorem State.succeed_freq : (s.succeed).freq = s.freq := rfl
@[simp] theorem State.succeed_node : (s.succeed).node = s.node := rfl
@[simp] theorem State.succeed_codeLen : (s.succeed).codeLen = s.codeLen := rfl
@[simp] theorem State.succeed_codeBits : (s.succeed).codeBits = s.codeBits := rfl
@[simp] theorem State.succeed_payload : (s.succeed).payload = s.payload := rfl
@[simp] theorem State.succeed_outBuf : (s.succeed).outBuf = s.outBuf := rfl
@[simp] theorem State.succeed_heap : (s.succeed).heap = s.heap := rfl
@[simp] theorem State.succeed_draws : (s.succeed).draws = s.draws := rfl
@[simp] theorem State.succeed_prog : (s.succeed).prog = s.prog := rfl
@[simp] theorem State.succeed_sched : (s.succeed).sched = s.sched := rfl
@[simp] theorem State.succeed_rdata : (s.succeed).rdata = s.rdata := rfl

/-! ### complete -/

@[simp] theorem State.complete_params : (s.complete).params = s.params := rfl
@[simp] theorem State.complete_phase : (s.complete).phase = .idle := rfl
@[simp] theorem State.complete_pending : (s.complete).pending = s.pending := rfl
@[simp] theorem State.complete_done : (s.complete).done = true := rfl
@[simp] theorem State.complete_wdrop : (s.complete).wdrop = s.wdrop := rfl
@[simp] theorem State.complete_treeValid : (s.complete).treeValid = s.treeValid := rfl
@[simp] theorem State.complete_codesValid : (s.complete).codesValid = s.codesValid := rfl
@[simp] theorem State.complete_payloadValid : (s.complete).payloadValid = s.payloadValid := rfl
@[simp] theorem State.complete_err : (s.complete).err = s.err := rfl
@[simp] theorem State.complete_doneIe : (s.complete).doneIe = s.doneIe := rfl
@[simp] theorem State.complete_inLen : (s.complete).inLen = s.inLen := rfl
@[simp] theorem State.complete_outLen : (s.complete).outLen = s.outLen := rfl
@[simp] theorem State.complete_payLen : (s.complete).payLen = s.payLen := rfl
@[simp] theorem State.complete_pad : (s.complete).pad = s.pad := rfl
@[simp] theorem State.complete_bitLen : (s.complete).bitLen = s.bitLen := rfl
@[simp] theorem State.complete_symCount : (s.complete).symCount = s.symCount := rfl
@[simp] theorem State.complete_total : (s.complete).total = s.total := rfl
@[simp] theorem State.complete_treeRoot : (s.complete).treeRoot = s.treeRoot := rfl
@[simp] theorem State.complete_maxCodeLen : (s.complete).maxCodeLen = s.maxCodeLen := rfl
@[simp] theorem State.complete_errInfo : (s.complete).errInfo = s.errInfo := rfl
@[simp] theorem State.complete_inBuf : (s.complete).inBuf = s.inBuf := rfl
@[simp] theorem State.complete_freq : (s.complete).freq = s.freq := rfl
@[simp] theorem State.complete_node : (s.complete).node = s.node := rfl
@[simp] theorem State.complete_codeLen : (s.complete).codeLen = s.codeLen := rfl
@[simp] theorem State.complete_codeBits : (s.complete).codeBits = s.codeBits := rfl
@[simp] theorem State.complete_payload : (s.complete).payload = s.payload := rfl
@[simp] theorem State.complete_outBuf : (s.complete).outBuf = s.outBuf := rfl
@[simp] theorem State.complete_heap : (s.complete).heap = s.heap := rfl
@[simp] theorem State.complete_draws : (s.complete).draws = s.draws := rfl
@[simp] theorem State.complete_prog : (s.complete).prog = s.prog := rfl
@[simp] theorem State.complete_sched : (s.complete).sched = s.sched := rfl
@[simp] theorem State.complete_rdata : (s.complete).rdata = s.rdata := rfl

/-! ### acknowledge -/

@[simp] theorem State.acknowledge_params (v : Word) : (s.acknowledge v).params = s.params := rfl
@[simp] theorem State.acknowledge_phase (v : Word) : (s.acknowledge v).phase = s.phase := rfl
@[simp] theorem State.acknowledge_pending (v : Word) : (s.acknowledge v).pending = s.pending := rfl
@[simp] theorem State.acknowledge_done (v : Word) : (s.acknowledge v).done = (s.done && !v.getLsbD 1) := rfl
@[simp] theorem State.acknowledge_wdrop (v : Word) : (s.acknowledge v).wdrop = (s.wdrop && !v.getLsbD 3) := rfl
@[simp] theorem State.acknowledge_treeValid (v : Word) : (s.acknowledge v).treeValid = s.treeValid := rfl
@[simp] theorem State.acknowledge_codesValid (v : Word) : (s.acknowledge v).codesValid = s.codesValid := rfl
@[simp] theorem State.acknowledge_payloadValid (v : Word) : (s.acknowledge v).payloadValid = s.payloadValid := rfl
@[simp] theorem State.acknowledge_err (v : Word) : (s.acknowledge v).err = s.err := rfl
@[simp] theorem State.acknowledge_doneIe (v : Word) : (s.acknowledge v).doneIe = s.doneIe := rfl
@[simp] theorem State.acknowledge_inLen (v : Word) : (s.acknowledge v).inLen = s.inLen := rfl
@[simp] theorem State.acknowledge_outLen (v : Word) : (s.acknowledge v).outLen = s.outLen := rfl
@[simp] theorem State.acknowledge_payLen (v : Word) : (s.acknowledge v).payLen = s.payLen := rfl
@[simp] theorem State.acknowledge_pad (v : Word) : (s.acknowledge v).pad = s.pad := rfl
@[simp] theorem State.acknowledge_bitLen (v : Word) : (s.acknowledge v).bitLen = s.bitLen := rfl
@[simp] theorem State.acknowledge_symCount (v : Word) : (s.acknowledge v).symCount = s.symCount := rfl
@[simp] theorem State.acknowledge_total (v : Word) : (s.acknowledge v).total = s.total := rfl
@[simp] theorem State.acknowledge_treeRoot (v : Word) : (s.acknowledge v).treeRoot = s.treeRoot := rfl
@[simp] theorem State.acknowledge_maxCodeLen (v : Word) : (s.acknowledge v).maxCodeLen = s.maxCodeLen := rfl
@[simp] theorem State.acknowledge_errInfo (v : Word) : (s.acknowledge v).errInfo = s.errInfo := rfl
@[simp] theorem State.acknowledge_inBuf (v : Word) : (s.acknowledge v).inBuf = s.inBuf := rfl
@[simp] theorem State.acknowledge_freq (v : Word) : (s.acknowledge v).freq = s.freq := rfl
@[simp] theorem State.acknowledge_node (v : Word) : (s.acknowledge v).node = s.node := rfl
@[simp] theorem State.acknowledge_codeLen (v : Word) : (s.acknowledge v).codeLen = s.codeLen := rfl
@[simp] theorem State.acknowledge_codeBits (v : Word) : (s.acknowledge v).codeBits = s.codeBits := rfl
@[simp] theorem State.acknowledge_payload (v : Word) : (s.acknowledge v).payload = s.payload := rfl
@[simp] theorem State.acknowledge_outBuf (v : Word) : (s.acknowledge v).outBuf = s.outBuf := rfl
@[simp] theorem State.acknowledge_heap (v : Word) : (s.acknowledge v).heap = s.heap := rfl
@[simp] theorem State.acknowledge_draws (v : Word) : (s.acknowledge v).draws = s.draws := rfl
@[simp] theorem State.acknowledge_prog (v : Word) : (s.acknowledge v).prog = s.prog := rfl
@[simp] theorem State.acknowledge_sched (v : Word) : (s.acknowledge v).sched = s.sched := rfl
@[simp] theorem State.acknowledge_rdata (v : Word) : (s.acknowledge v).rdata = s.rdata := rfl

/-! ### writeIrqEn -/

@[simp] theorem State.writeIrqEn_params (v : Word) : (s.writeIrqEn v).params = s.params := rfl
@[simp] theorem State.writeIrqEn_phase (v : Word) : (s.writeIrqEn v).phase = s.phase := rfl
@[simp] theorem State.writeIrqEn_pending (v : Word) : (s.writeIrqEn v).pending = s.pending := rfl
@[simp] theorem State.writeIrqEn_done (v : Word) : (s.writeIrqEn v).done = s.done := rfl
@[simp] theorem State.writeIrqEn_wdrop (v : Word) : (s.writeIrqEn v).wdrop = s.wdrop := rfl
@[simp] theorem State.writeIrqEn_treeValid (v : Word) : (s.writeIrqEn v).treeValid = s.treeValid := rfl
@[simp] theorem State.writeIrqEn_codesValid (v : Word) : (s.writeIrqEn v).codesValid = s.codesValid := rfl
@[simp] theorem State.writeIrqEn_payloadValid (v : Word) : (s.writeIrqEn v).payloadValid = s.payloadValid := rfl
@[simp] theorem State.writeIrqEn_err (v : Word) : (s.writeIrqEn v).err = s.err := rfl
@[simp] theorem State.writeIrqEn_doneIe (v : Word) : (s.writeIrqEn v).doneIe = v.getLsbD 0 := rfl
@[simp] theorem State.writeIrqEn_inLen (v : Word) : (s.writeIrqEn v).inLen = s.inLen := rfl
@[simp] theorem State.writeIrqEn_outLen (v : Word) : (s.writeIrqEn v).outLen = s.outLen := rfl
@[simp] theorem State.writeIrqEn_payLen (v : Word) : (s.writeIrqEn v).payLen = s.payLen := rfl
@[simp] theorem State.writeIrqEn_pad (v : Word) : (s.writeIrqEn v).pad = s.pad := rfl
@[simp] theorem State.writeIrqEn_bitLen (v : Word) : (s.writeIrqEn v).bitLen = s.bitLen := rfl
@[simp] theorem State.writeIrqEn_symCount (v : Word) : (s.writeIrqEn v).symCount = s.symCount := rfl
@[simp] theorem State.writeIrqEn_total (v : Word) : (s.writeIrqEn v).total = s.total := rfl
@[simp] theorem State.writeIrqEn_treeRoot (v : Word) : (s.writeIrqEn v).treeRoot = s.treeRoot := rfl
@[simp] theorem State.writeIrqEn_maxCodeLen (v : Word) : (s.writeIrqEn v).maxCodeLen = s.maxCodeLen := rfl
@[simp] theorem State.writeIrqEn_errInfo (v : Word) : (s.writeIrqEn v).errInfo = s.errInfo := rfl
@[simp] theorem State.writeIrqEn_inBuf (v : Word) : (s.writeIrqEn v).inBuf = s.inBuf := rfl
@[simp] theorem State.writeIrqEn_freq (v : Word) : (s.writeIrqEn v).freq = s.freq := rfl
@[simp] theorem State.writeIrqEn_node (v : Word) : (s.writeIrqEn v).node = s.node := rfl
@[simp] theorem State.writeIrqEn_codeLen (v : Word) : (s.writeIrqEn v).codeLen = s.codeLen := rfl
@[simp] theorem State.writeIrqEn_codeBits (v : Word) : (s.writeIrqEn v).codeBits = s.codeBits := rfl
@[simp] theorem State.writeIrqEn_payload (v : Word) : (s.writeIrqEn v).payload = s.payload := rfl
@[simp] theorem State.writeIrqEn_outBuf (v : Word) : (s.writeIrqEn v).outBuf = s.outBuf := rfl
@[simp] theorem State.writeIrqEn_heap (v : Word) : (s.writeIrqEn v).heap = s.heap := rfl
@[simp] theorem State.writeIrqEn_draws (v : Word) : (s.writeIrqEn v).draws = s.draws := rfl
@[simp] theorem State.writeIrqEn_prog (v : Word) : (s.writeIrqEn v).prog = s.prog := rfl
@[simp] theorem State.writeIrqEn_sched (v : Word) : (s.writeIrqEn v).sched = s.sched := rfl
@[simp] theorem State.writeIrqEn_rdata (v : Word) : (s.writeIrqEn v).rdata = s.rdata := rfl

/-! ### dropWrite -/

@[simp] theorem State.dropWrite_params : (s.dropWrite).params = s.params := rfl
@[simp] theorem State.dropWrite_phase : (s.dropWrite).phase = s.phase := rfl
@[simp] theorem State.dropWrite_pending : (s.dropWrite).pending = s.pending := rfl
@[simp] theorem State.dropWrite_done : (s.dropWrite).done = s.done := rfl
@[simp] theorem State.dropWrite_wdrop : (s.dropWrite).wdrop = true := rfl
@[simp] theorem State.dropWrite_treeValid : (s.dropWrite).treeValid = s.treeValid := rfl
@[simp] theorem State.dropWrite_codesValid : (s.dropWrite).codesValid = s.codesValid := rfl
@[simp] theorem State.dropWrite_payloadValid : (s.dropWrite).payloadValid = s.payloadValid := rfl
@[simp] theorem State.dropWrite_err : (s.dropWrite).err = s.err := rfl
@[simp] theorem State.dropWrite_doneIe : (s.dropWrite).doneIe = s.doneIe := rfl
@[simp] theorem State.dropWrite_inLen : (s.dropWrite).inLen = s.inLen := rfl
@[simp] theorem State.dropWrite_outLen : (s.dropWrite).outLen = s.outLen := rfl
@[simp] theorem State.dropWrite_payLen : (s.dropWrite).payLen = s.payLen := rfl
@[simp] theorem State.dropWrite_pad : (s.dropWrite).pad = s.pad := rfl
@[simp] theorem State.dropWrite_bitLen : (s.dropWrite).bitLen = s.bitLen := rfl
@[simp] theorem State.dropWrite_symCount : (s.dropWrite).symCount = s.symCount := rfl
@[simp] theorem State.dropWrite_total : (s.dropWrite).total = s.total := rfl
@[simp] theorem State.dropWrite_treeRoot : (s.dropWrite).treeRoot = s.treeRoot := rfl
@[simp] theorem State.dropWrite_maxCodeLen : (s.dropWrite).maxCodeLen = s.maxCodeLen := rfl
@[simp] theorem State.dropWrite_errInfo : (s.dropWrite).errInfo = s.errInfo := rfl
@[simp] theorem State.dropWrite_inBuf : (s.dropWrite).inBuf = s.inBuf := rfl
@[simp] theorem State.dropWrite_freq : (s.dropWrite).freq = s.freq := rfl
@[simp] theorem State.dropWrite_node : (s.dropWrite).node = s.node := rfl
@[simp] theorem State.dropWrite_codeLen : (s.dropWrite).codeLen = s.codeLen := rfl
@[simp] theorem State.dropWrite_codeBits : (s.dropWrite).codeBits = s.codeBits := rfl
@[simp] theorem State.dropWrite_payload : (s.dropWrite).payload = s.payload := rfl
@[simp] theorem State.dropWrite_outBuf : (s.dropWrite).outBuf = s.outBuf := rfl
@[simp] theorem State.dropWrite_heap : (s.dropWrite).heap = s.heap := rfl
@[simp] theorem State.dropWrite_draws : (s.dropWrite).draws = s.draws := rfl
@[simp] theorem State.dropWrite_prog : (s.dropWrite).prog = s.prog := rfl
@[simp] theorem State.dropWrite_sched : (s.dropWrite).sched = s.sched := rfl
@[simp] theorem State.dropWrite_rdata : (s.dropWrite).rdata = s.rdata := rfl

/-! ### invCodes -/

@[simp] theorem State.invCodes_params : (s.invCodes).params = s.params := rfl
@[simp] theorem State.invCodes_phase : (s.invCodes).phase = s.phase := rfl
@[simp] theorem State.invCodes_pending : (s.invCodes).pending = s.pending := rfl
@[simp] theorem State.invCodes_done : (s.invCodes).done = s.done := rfl
@[simp] theorem State.invCodes_wdrop : (s.invCodes).wdrop = s.wdrop := rfl
@[simp] theorem State.invCodes_treeValid : (s.invCodes).treeValid = s.treeValid := rfl
@[simp] theorem State.invCodes_codesValid : (s.invCodes).codesValid = false := rfl
@[simp] theorem State.invCodes_payloadValid : (s.invCodes).payloadValid = s.payloadValid := rfl
@[simp] theorem State.invCodes_err : (s.invCodes).err = s.err := rfl
@[simp] theorem State.invCodes_doneIe : (s.invCodes).doneIe = s.doneIe := rfl
@[simp] theorem State.invCodes_inLen : (s.invCodes).inLen = s.inLen := rfl
@[simp] theorem State.invCodes_outLen : (s.invCodes).outLen = s.outLen := rfl
@[simp] theorem State.invCodes_payLen : (s.invCodes).payLen = s.payLen := rfl
@[simp] theorem State.invCodes_pad : (s.invCodes).pad = s.pad := rfl
@[simp] theorem State.invCodes_bitLen : (s.invCodes).bitLen = s.bitLen := rfl
@[simp] theorem State.invCodes_symCount : (s.invCodes).symCount = s.symCount := rfl
@[simp] theorem State.invCodes_total : (s.invCodes).total = s.total := rfl
@[simp] theorem State.invCodes_treeRoot : (s.invCodes).treeRoot = s.treeRoot := rfl
@[simp] theorem State.invCodes_maxCodeLen : (s.invCodes).maxCodeLen = 0#32 := rfl
@[simp] theorem State.invCodes_errInfo : (s.invCodes).errInfo = s.errInfo := rfl
@[simp] theorem State.invCodes_inBuf : (s.invCodes).inBuf = s.inBuf := rfl
@[simp] theorem State.invCodes_freq : (s.invCodes).freq = s.freq := rfl
@[simp] theorem State.invCodes_node : (s.invCodes).node = s.node := rfl
@[simp] theorem State.invCodes_codeLen : (s.invCodes).codeLen = s.codeLen := rfl
@[simp] theorem State.invCodes_codeBits : (s.invCodes).codeBits = s.codeBits := rfl
@[simp] theorem State.invCodes_payload : (s.invCodes).payload = s.payload := rfl
@[simp] theorem State.invCodes_outBuf : (s.invCodes).outBuf = s.outBuf := rfl
@[simp] theorem State.invCodes_heap : (s.invCodes).heap = s.heap := rfl
@[simp] theorem State.invCodes_draws : (s.invCodes).draws = s.draws := rfl
@[simp] theorem State.invCodes_prog : (s.invCodes).prog = s.prog := rfl
@[simp] theorem State.invCodes_sched : (s.invCodes).sched = s.sched := rfl
@[simp] theorem State.invCodes_rdata : (s.invCodes).rdata = s.rdata := rfl

/-! ### invTree -/

@[simp] theorem State.invTree_params : (s.invTree).params = s.params := rfl
@[simp] theorem State.invTree_phase : (s.invTree).phase = s.phase := rfl
@[simp] theorem State.invTree_pending : (s.invTree).pending = s.pending := rfl
@[simp] theorem State.invTree_done : (s.invTree).done = s.done := rfl
@[simp] theorem State.invTree_wdrop : (s.invTree).wdrop = s.wdrop := rfl
@[simp] theorem State.invTree_treeValid : (s.invTree).treeValid = false := rfl
@[simp] theorem State.invTree_codesValid : (s.invTree).codesValid = false := rfl
@[simp] theorem State.invTree_payloadValid : (s.invTree).payloadValid = s.payloadValid := rfl
@[simp] theorem State.invTree_err : (s.invTree).err = s.err := rfl
@[simp] theorem State.invTree_doneIe : (s.invTree).doneIe = s.doneIe := rfl
@[simp] theorem State.invTree_inLen : (s.invTree).inLen = s.inLen := rfl
@[simp] theorem State.invTree_outLen : (s.invTree).outLen = s.outLen := rfl
@[simp] theorem State.invTree_payLen : (s.invTree).payLen = s.payLen := rfl
@[simp] theorem State.invTree_pad : (s.invTree).pad = s.pad := rfl
@[simp] theorem State.invTree_bitLen : (s.invTree).bitLen = s.bitLen := rfl
@[simp] theorem State.invTree_symCount : (s.invTree).symCount = s.symCount := rfl
@[simp] theorem State.invTree_total : (s.invTree).total = s.total := rfl
@[simp] theorem State.invTree_treeRoot : (s.invTree).treeRoot = 0 := rfl
@[simp] theorem State.invTree_maxCodeLen : (s.invTree).maxCodeLen = 0#32 := rfl
@[simp] theorem State.invTree_errInfo : (s.invTree).errInfo = s.errInfo := rfl
@[simp] theorem State.invTree_inBuf : (s.invTree).inBuf = s.inBuf := rfl
@[simp] theorem State.invTree_freq : (s.invTree).freq = s.freq := rfl
@[simp] theorem State.invTree_node : (s.invTree).node = s.node := rfl
@[simp] theorem State.invTree_codeLen : (s.invTree).codeLen = s.codeLen := rfl
@[simp] theorem State.invTree_codeBits : (s.invTree).codeBits = s.codeBits := rfl
@[simp] theorem State.invTree_payload : (s.invTree).payload = s.payload := rfl
@[simp] theorem State.invTree_outBuf : (s.invTree).outBuf = s.outBuf := rfl
@[simp] theorem State.invTree_heap : (s.invTree).heap = s.heap := rfl
@[simp] theorem State.invTree_draws : (s.invTree).draws = s.draws := rfl
@[simp] theorem State.invTree_prog : (s.invTree).prog = s.prog := rfl
@[simp] theorem State.invTree_sched : (s.invTree).sched = s.sched := rfl
@[simp] theorem State.invTree_rdata : (s.invTree).rdata = s.rdata := rfl

/-! ### invPay -/

@[simp] theorem State.invPay_params : (s.invPay).params = s.params := rfl
@[simp] theorem State.invPay_phase : (s.invPay).phase = s.phase := rfl
@[simp] theorem State.invPay_pending : (s.invPay).pending = s.pending := rfl
@[simp] theorem State.invPay_done : (s.invPay).done = s.done := rfl
@[simp] theorem State.invPay_wdrop : (s.invPay).wdrop = s.wdrop := rfl
@[simp] theorem State.invPay_treeValid : (s.invPay).treeValid = s.treeValid := rfl
@[simp] theorem State.invPay_codesValid : (s.invPay).codesValid = s.codesValid := rfl
@[simp] theorem State.invPay_payloadValid : (s.invPay).payloadValid = false := rfl
@[simp] theorem State.invPay_err : (s.invPay).err = s.err := rfl
@[simp] theorem State.invPay_doneIe : (s.invPay).doneIe = s.doneIe := rfl
@[simp] theorem State.invPay_inLen : (s.invPay).inLen = s.inLen := rfl
@[simp] theorem State.invPay_outLen : (s.invPay).outLen = s.outLen := rfl
@[simp] theorem State.invPay_payLen : (s.invPay).payLen = 0#32 := rfl
@[simp] theorem State.invPay_pad : (s.invPay).pad = 0#32 := rfl
@[simp] theorem State.invPay_bitLen : (s.invPay).bitLen = 0#32 := rfl
@[simp] theorem State.invPay_symCount : (s.invPay).symCount = s.symCount := rfl
@[simp] theorem State.invPay_total : (s.invPay).total = s.total := rfl
@[simp] theorem State.invPay_treeRoot : (s.invPay).treeRoot = s.treeRoot := rfl
@[simp] theorem State.invPay_maxCodeLen : (s.invPay).maxCodeLen = s.maxCodeLen := rfl
@[simp] theorem State.invPay_errInfo : (s.invPay).errInfo = s.errInfo := rfl
@[simp] theorem State.invPay_inBuf : (s.invPay).inBuf = s.inBuf := rfl
@[simp] theorem State.invPay_freq : (s.invPay).freq = s.freq := rfl
@[simp] theorem State.invPay_node : (s.invPay).node = s.node := rfl
@[simp] theorem State.invPay_codeLen : (s.invPay).codeLen = s.codeLen := rfl
@[simp] theorem State.invPay_codeBits : (s.invPay).codeBits = s.codeBits := rfl
@[simp] theorem State.invPay_payload : (s.invPay).payload = s.payload := rfl
@[simp] theorem State.invPay_outBuf : (s.invPay).outBuf = s.outBuf := rfl
@[simp] theorem State.invPay_heap : (s.invPay).heap = s.heap := rfl
@[simp] theorem State.invPay_draws : (s.invPay).draws = s.draws := rfl
@[simp] theorem State.invPay_prog : (s.invPay).prog = s.prog := rfl
@[simp] theorem State.invPay_sched : (s.invPay).sched = s.sched := rfl
@[simp] theorem State.invPay_rdata : (s.invPay).rdata = s.rdata := rfl

/-! ### invAll -/

@[simp] theorem State.invAll_params : (s.invAll).params = s.params := rfl
@[simp] theorem State.invAll_phase : (s.invAll).phase = s.phase := rfl
@[simp] theorem State.invAll_pending : (s.invAll).pending = s.pending := rfl
@[simp] theorem State.invAll_done : (s.invAll).done = s.done := rfl
@[simp] theorem State.invAll_wdrop : (s.invAll).wdrop = s.wdrop := rfl
@[simp] theorem State.invAll_treeValid : (s.invAll).treeValid = false := rfl
@[simp] theorem State.invAll_codesValid : (s.invAll).codesValid = false := rfl
@[simp] theorem State.invAll_payloadValid : (s.invAll).payloadValid = false := rfl
@[simp] theorem State.invAll_err : (s.invAll).err = s.err := rfl
@[simp] theorem State.invAll_doneIe : (s.invAll).doneIe = s.doneIe := rfl
@[simp] theorem State.invAll_inLen : (s.invAll).inLen = s.inLen := rfl
@[simp] theorem State.invAll_outLen : (s.invAll).outLen = s.outLen := rfl
@[simp] theorem State.invAll_payLen : (s.invAll).payLen = 0#32 := rfl
@[simp] theorem State.invAll_pad : (s.invAll).pad = 0#32 := rfl
@[simp] theorem State.invAll_bitLen : (s.invAll).bitLen = 0#32 := rfl
@[simp] theorem State.invAll_symCount : (s.invAll).symCount = s.symCount := rfl
@[simp] theorem State.invAll_total : (s.invAll).total = s.total := rfl
@[simp] theorem State.invAll_treeRoot : (s.invAll).treeRoot = 0 := rfl
@[simp] theorem State.invAll_maxCodeLen : (s.invAll).maxCodeLen = 0#32 := rfl
@[simp] theorem State.invAll_errInfo : (s.invAll).errInfo = s.errInfo := rfl
@[simp] theorem State.invAll_inBuf : (s.invAll).inBuf = s.inBuf := rfl
@[simp] theorem State.invAll_freq : (s.invAll).freq = s.freq := rfl
@[simp] theorem State.invAll_node : (s.invAll).node = s.node := rfl
@[simp] theorem State.invAll_codeLen : (s.invAll).codeLen = s.codeLen := rfl
@[simp] theorem State.invAll_codeBits : (s.invAll).codeBits = s.codeBits := rfl
@[simp] theorem State.invAll_payload : (s.invAll).payload = s.payload := rfl
@[simp] theorem State.invAll_outBuf : (s.invAll).outBuf = s.outBuf := rfl
@[simp] theorem State.invAll_heap : (s.invAll).heap = s.heap := rfl
@[simp] theorem State.invAll_draws : (s.invAll).draws = s.draws := rfl
@[simp] theorem State.invAll_prog : (s.invAll).prog = s.prog := rfl
@[simp] theorem State.invAll_sched : (s.invAll).sched = s.sched := rfl
@[simp] theorem State.invAll_rdata : (s.invAll).rdata = s.rdata := rfl

/-! ### setPayload -/

@[simp] theorem State.setPayload_params (bs : List Byte) : (s.setPayload bs).params = s.params := rfl
@[simp] theorem State.setPayload_phase (bs : List Byte) : (s.setPayload bs).phase = s.phase := rfl
@[simp] theorem State.setPayload_pending (bs : List Byte) : (s.setPayload bs).pending = s.pending := rfl
@[simp] theorem State.setPayload_done (bs : List Byte) : (s.setPayload bs).done = s.done := rfl
@[simp] theorem State.setPayload_wdrop (bs : List Byte) : (s.setPayload bs).wdrop = s.wdrop := rfl
@[simp] theorem State.setPayload_treeValid (bs : List Byte) : (s.setPayload bs).treeValid = s.treeValid := rfl
@[simp] theorem State.setPayload_codesValid (bs : List Byte) : (s.setPayload bs).codesValid = s.codesValid := rfl
@[simp] theorem State.setPayload_payloadValid (bs : List Byte) : (s.setPayload bs).payloadValid = s.payloadValid := rfl
@[simp] theorem State.setPayload_err (bs : List Byte) : (s.setPayload bs).err = s.err := rfl
@[simp] theorem State.setPayload_doneIe (bs : List Byte) : (s.setPayload bs).doneIe = s.doneIe := rfl
@[simp] theorem State.setPayload_inLen (bs : List Byte) : (s.setPayload bs).inLen = s.inLen := rfl
@[simp] theorem State.setPayload_outLen (bs : List Byte) : (s.setPayload bs).outLen = s.outLen := rfl
@[simp] theorem State.setPayload_payLen (bs : List Byte) : (s.setPayload bs).payLen = s.payLen := rfl
@[simp] theorem State.setPayload_pad (bs : List Byte) : (s.setPayload bs).pad = s.pad := rfl
@[simp] theorem State.setPayload_bitLen (bs : List Byte) : (s.setPayload bs).bitLen = s.bitLen := rfl
@[simp] theorem State.setPayload_symCount (bs : List Byte) : (s.setPayload bs).symCount = s.symCount := rfl
@[simp] theorem State.setPayload_total (bs : List Byte) : (s.setPayload bs).total = s.total := rfl
@[simp] theorem State.setPayload_treeRoot (bs : List Byte) : (s.setPayload bs).treeRoot = s.treeRoot := rfl
@[simp] theorem State.setPayload_maxCodeLen (bs : List Byte) : (s.setPayload bs).maxCodeLen = s.maxCodeLen := rfl
@[simp] theorem State.setPayload_errInfo (bs : List Byte) : (s.setPayload bs).errInfo = s.errInfo := rfl
@[simp] theorem State.setPayload_inBuf (bs : List Byte) : (s.setPayload bs).inBuf = s.inBuf := rfl
@[simp] theorem State.setPayload_freq (bs : List Byte) : (s.setPayload bs).freq = s.freq := rfl
@[simp] theorem State.setPayload_node (bs : List Byte) : (s.setPayload bs).node = s.node := rfl
@[simp] theorem State.setPayload_codeLen (bs : List Byte) : (s.setPayload bs).codeLen = s.codeLen := rfl
@[simp] theorem State.setPayload_codeBits (bs : List Byte) : (s.setPayload bs).codeBits = s.codeBits := rfl
@[simp] theorem State.setPayload_payload (bs : List Byte) : (s.setPayload bs).payload = Memory.filled s.draws bs := rfl
@[simp] theorem State.setPayload_outBuf (bs : List Byte) : (s.setPayload bs).outBuf = s.outBuf := rfl
@[simp] theorem State.setPayload_heap (bs : List Byte) : (s.setPayload bs).heap = s.heap := rfl
@[simp] theorem State.setPayload_draws (bs : List Byte) : (s.setPayload bs).draws = s.draws + 1 := rfl
@[simp] theorem State.setPayload_prog (bs : List Byte) : (s.setPayload bs).prog = s.prog := rfl
@[simp] theorem State.setPayload_sched (bs : List Byte) : (s.setPayload bs).sched = s.sched := rfl
@[simp] theorem State.setPayload_rdata (bs : List Byte) : (s.setPayload bs).rdata = s.rdata := rfl

/-! ### setOutput -/

@[simp] theorem State.setOutput_params (bs : List Byte) : (s.setOutput bs).params = s.params := rfl
@[simp] theorem State.setOutput_phase (bs : List Byte) : (s.setOutput bs).phase = s.phase := rfl
@[simp] theorem State.setOutput_pending (bs : List Byte) : (s.setOutput bs).pending = s.pending := rfl
@[simp] theorem State.setOutput_done (bs : List Byte) : (s.setOutput bs).done = s.done := rfl
@[simp] theorem State.setOutput_wdrop (bs : List Byte) : (s.setOutput bs).wdrop = s.wdrop := rfl
@[simp] theorem State.setOutput_treeValid (bs : List Byte) : (s.setOutput bs).treeValid = s.treeValid := rfl
@[simp] theorem State.setOutput_codesValid (bs : List Byte) : (s.setOutput bs).codesValid = s.codesValid := rfl
@[simp] theorem State.setOutput_payloadValid (bs : List Byte) : (s.setOutput bs).payloadValid = s.payloadValid := rfl
@[simp] theorem State.setOutput_err (bs : List Byte) : (s.setOutput bs).err = s.err := rfl
@[simp] theorem State.setOutput_doneIe (bs : List Byte) : (s.setOutput bs).doneIe = s.doneIe := rfl
@[simp] theorem State.setOutput_inLen (bs : List Byte) : (s.setOutput bs).inLen = s.inLen := rfl
@[simp] theorem State.setOutput_outLen (bs : List Byte) : (s.setOutput bs).outLen = word bs.length := rfl
@[simp] theorem State.setOutput_payLen (bs : List Byte) : (s.setOutput bs).payLen = s.payLen := rfl
@[simp] theorem State.setOutput_pad (bs : List Byte) : (s.setOutput bs).pad = s.pad := rfl
@[simp] theorem State.setOutput_bitLen (bs : List Byte) : (s.setOutput bs).bitLen = s.bitLen := rfl
@[simp] theorem State.setOutput_symCount (bs : List Byte) : (s.setOutput bs).symCount = s.symCount := rfl
@[simp] theorem State.setOutput_total (bs : List Byte) : (s.setOutput bs).total = s.total := rfl
@[simp] theorem State.setOutput_treeRoot (bs : List Byte) : (s.setOutput bs).treeRoot = s.treeRoot := rfl
@[simp] theorem State.setOutput_maxCodeLen (bs : List Byte) : (s.setOutput bs).maxCodeLen = s.maxCodeLen := rfl
@[simp] theorem State.setOutput_errInfo (bs : List Byte) : (s.setOutput bs).errInfo = s.errInfo := rfl
@[simp] theorem State.setOutput_inBuf (bs : List Byte) : (s.setOutput bs).inBuf = s.inBuf := rfl
@[simp] theorem State.setOutput_freq (bs : List Byte) : (s.setOutput bs).freq = s.freq := rfl
@[simp] theorem State.setOutput_node (bs : List Byte) : (s.setOutput bs).node = s.node := rfl
@[simp] theorem State.setOutput_codeLen (bs : List Byte) : (s.setOutput bs).codeLen = s.codeLen := rfl
@[simp] theorem State.setOutput_codeBits (bs : List Byte) : (s.setOutput bs).codeBits = s.codeBits := rfl
@[simp] theorem State.setOutput_payload (bs : List Byte) : (s.setOutput bs).payload = s.payload := rfl
@[simp] theorem State.setOutput_outBuf (bs : List Byte) : (s.setOutput bs).outBuf = Memory.filled s.draws bs := rfl
@[simp] theorem State.setOutput_heap (bs : List Byte) : (s.setOutput bs).heap = s.heap := rfl
@[simp] theorem State.setOutput_draws (bs : List Byte) : (s.setOutput bs).draws = s.draws + 1 := rfl
@[simp] theorem State.setOutput_prog (bs : List Byte) : (s.setOutput bs).prog = s.prog := rfl
@[simp] theorem State.setOutput_sched (bs : List Byte) : (s.setOutput bs).sched = s.sched := rfl
@[simp] theorem State.setOutput_rdata (bs : List Byte) : (s.setOutput bs).rdata = s.rdata := rfl

/-! ### loseFreq -/

@[simp] theorem State.loseFreq_params : (s.loseFreq).params = s.params := rfl
@[simp] theorem State.loseFreq_phase : (s.loseFreq).phase = s.phase := rfl
@[simp] theorem State.loseFreq_pending : (s.loseFreq).pending = s.pending := rfl
@[simp] theorem State.loseFreq_done : (s.loseFreq).done = s.done := rfl
@[simp] theorem State.loseFreq_wdrop : (s.loseFreq).wdrop = s.wdrop := rfl
@[simp] theorem State.loseFreq_treeValid : (s.loseFreq).treeValid = s.treeValid := rfl
@[simp] theorem State.loseFreq_codesValid : (s.loseFreq).codesValid = s.codesValid := rfl
@[simp] theorem State.loseFreq_payloadValid : (s.loseFreq).payloadValid = s.payloadValid := rfl
@[simp] theorem State.loseFreq_err : (s.loseFreq).err = s.err := rfl
@[simp] theorem State.loseFreq_doneIe : (s.loseFreq).doneIe = s.doneIe := rfl
@[simp] theorem State.loseFreq_inLen : (s.loseFreq).inLen = s.inLen := rfl
@[simp] theorem State.loseFreq_outLen : (s.loseFreq).outLen = s.outLen := rfl
@[simp] theorem State.loseFreq_payLen : (s.loseFreq).payLen = s.payLen := rfl
@[simp] theorem State.loseFreq_pad : (s.loseFreq).pad = s.pad := rfl
@[simp] theorem State.loseFreq_bitLen : (s.loseFreq).bitLen = s.bitLen := rfl
@[simp] theorem State.loseFreq_symCount : (s.loseFreq).symCount = s.symCount := rfl
@[simp] theorem State.loseFreq_total : (s.loseFreq).total = s.total := rfl
@[simp] theorem State.loseFreq_treeRoot : (s.loseFreq).treeRoot = s.treeRoot := rfl
@[simp] theorem State.loseFreq_maxCodeLen : (s.loseFreq).maxCodeLen = s.maxCodeLen := rfl
@[simp] theorem State.loseFreq_errInfo : (s.loseFreq).errInfo = s.errInfo := rfl
@[simp] theorem State.loseFreq_inBuf : (s.loseFreq).inBuf = s.inBuf := rfl
@[simp] theorem State.loseFreq_freq : (s.loseFreq).freq = (Table.tabulate fun b => Config.freeWord s.draws b.toNat) := rfl
@[simp] theorem State.loseFreq_node : (s.loseFreq).node = s.node := rfl
@[simp] theorem State.loseFreq_codeLen : (s.loseFreq).codeLen = s.codeLen := rfl
@[simp] theorem State.loseFreq_codeBits : (s.loseFreq).codeBits = s.codeBits := rfl
@[simp] theorem State.loseFreq_payload : (s.loseFreq).payload = s.payload := rfl
@[simp] theorem State.loseFreq_outBuf : (s.loseFreq).outBuf = s.outBuf := rfl
@[simp] theorem State.loseFreq_heap : (s.loseFreq).heap = s.heap := rfl
@[simp] theorem State.loseFreq_draws : (s.loseFreq).draws = s.draws + 1 := rfl
@[simp] theorem State.loseFreq_prog : (s.loseFreq).prog = s.prog := rfl
@[simp] theorem State.loseFreq_sched : (s.loseFreq).sched = s.sched := rfl
@[simp] theorem State.loseFreq_rdata : (s.loseFreq).rdata = s.rdata := rfl

/-! ### loseHeap -/

@[simp] theorem State.loseHeap_params : (s.loseHeap).params = s.params := rfl
@[simp] theorem State.loseHeap_phase : (s.loseHeap).phase = s.phase := rfl
@[simp] theorem State.loseHeap_pending : (s.loseHeap).pending = s.pending := rfl
@[simp] theorem State.loseHeap_done : (s.loseHeap).done = s.done := rfl
@[simp] theorem State.loseHeap_wdrop : (s.loseHeap).wdrop = s.wdrop := rfl
@[simp] theorem State.loseHeap_treeValid : (s.loseHeap).treeValid = s.treeValid := rfl
@[simp] theorem State.loseHeap_codesValid : (s.loseHeap).codesValid = s.codesValid := rfl
@[simp] theorem State.loseHeap_payloadValid : (s.loseHeap).payloadValid = s.payloadValid := rfl
@[simp] theorem State.loseHeap_err : (s.loseHeap).err = s.err := rfl
@[simp] theorem State.loseHeap_doneIe : (s.loseHeap).doneIe = s.doneIe := rfl
@[simp] theorem State.loseHeap_inLen : (s.loseHeap).inLen = s.inLen := rfl
@[simp] theorem State.loseHeap_outLen : (s.loseHeap).outLen = s.outLen := rfl
@[simp] theorem State.loseHeap_payLen : (s.loseHeap).payLen = s.payLen := rfl
@[simp] theorem State.loseHeap_pad : (s.loseHeap).pad = s.pad := rfl
@[simp] theorem State.loseHeap_bitLen : (s.loseHeap).bitLen = s.bitLen := rfl
@[simp] theorem State.loseHeap_symCount : (s.loseHeap).symCount = s.symCount := rfl
@[simp] theorem State.loseHeap_total : (s.loseHeap).total = s.total := rfl
@[simp] theorem State.loseHeap_treeRoot : (s.loseHeap).treeRoot = s.treeRoot := rfl
@[simp] theorem State.loseHeap_maxCodeLen : (s.loseHeap).maxCodeLen = s.maxCodeLen := rfl
@[simp] theorem State.loseHeap_errInfo : (s.loseHeap).errInfo = s.errInfo := rfl
@[simp] theorem State.loseHeap_inBuf : (s.loseHeap).inBuf = s.inBuf := rfl
@[simp] theorem State.loseHeap_freq : (s.loseHeap).freq = s.freq := rfl
@[simp] theorem State.loseHeap_node : (s.loseHeap).node = s.node := rfl
@[simp] theorem State.loseHeap_codeLen : (s.loseHeap).codeLen = s.codeLen := rfl
@[simp] theorem State.loseHeap_codeBits : (s.loseHeap).codeBits = s.codeBits := rfl
@[simp] theorem State.loseHeap_payload : (s.loseHeap).payload = s.payload := rfl
@[simp] theorem State.loseHeap_outBuf : (s.loseHeap).outBuf = s.outBuf := rfl
@[simp] theorem State.loseHeap_heap : (s.loseHeap).heap = HeapArray.drawn s.draws := rfl
@[simp] theorem State.loseHeap_draws : (s.loseHeap).draws = s.draws + 1 := rfl
@[simp] theorem State.loseHeap_prog : (s.loseHeap).prog = s.prog := rfl
@[simp] theorem State.loseHeap_sched : (s.loseHeap).sched = s.sched := rfl
@[simp] theorem State.loseHeap_rdata : (s.loseHeap).rdata = s.rdata := rfl

/-! ### emptyPayload -/

@[simp] theorem State.emptyPayload_params : (s.emptyPayload).params = s.params := rfl
@[simp] theorem State.emptyPayload_phase : (s.emptyPayload).phase = s.phase := rfl
@[simp] theorem State.emptyPayload_pending : (s.emptyPayload).pending = s.pending := rfl
@[simp] theorem State.emptyPayload_done : (s.emptyPayload).done = s.done := rfl
@[simp] theorem State.emptyPayload_wdrop : (s.emptyPayload).wdrop = s.wdrop := rfl
@[simp] theorem State.emptyPayload_treeValid : (s.emptyPayload).treeValid = s.treeValid := rfl
@[simp] theorem State.emptyPayload_codesValid : (s.emptyPayload).codesValid = s.codesValid := rfl
@[simp] theorem State.emptyPayload_payloadValid : (s.emptyPayload).payloadValid = true := rfl
@[simp] theorem State.emptyPayload_err : (s.emptyPayload).err = s.err := rfl
@[simp] theorem State.emptyPayload_doneIe : (s.emptyPayload).doneIe = s.doneIe := rfl
@[simp] theorem State.emptyPayload_inLen : (s.emptyPayload).inLen = s.inLen := rfl
@[simp] theorem State.emptyPayload_outLen : (s.emptyPayload).outLen = s.outLen := rfl
@[simp] theorem State.emptyPayload_payLen : (s.emptyPayload).payLen = 0#32 := rfl
@[simp] theorem State.emptyPayload_pad : (s.emptyPayload).pad = 0#32 := rfl
@[simp] theorem State.emptyPayload_bitLen : (s.emptyPayload).bitLen = 0#32 := rfl
@[simp] theorem State.emptyPayload_symCount : (s.emptyPayload).symCount = s.symCount := rfl
@[simp] theorem State.emptyPayload_total : (s.emptyPayload).total = s.total := rfl
@[simp] theorem State.emptyPayload_treeRoot : (s.emptyPayload).treeRoot = s.treeRoot := rfl
@[simp] theorem State.emptyPayload_maxCodeLen : (s.emptyPayload).maxCodeLen = s.maxCodeLen := rfl
@[simp] theorem State.emptyPayload_errInfo : (s.emptyPayload).errInfo = s.errInfo := rfl
@[simp] theorem State.emptyPayload_inBuf : (s.emptyPayload).inBuf = s.inBuf := rfl
@[simp] theorem State.emptyPayload_freq : (s.emptyPayload).freq = s.freq := rfl
@[simp] theorem State.emptyPayload_node : (s.emptyPayload).node = s.node := rfl
@[simp] theorem State.emptyPayload_codeLen : (s.emptyPayload).codeLen = s.codeLen := rfl
@[simp] theorem State.emptyPayload_codeBits : (s.emptyPayload).codeBits = s.codeBits := rfl
@[simp] theorem State.emptyPayload_payload : (s.emptyPayload).payload = Memory.filled s.draws [] := rfl
@[simp] theorem State.emptyPayload_outBuf : (s.emptyPayload).outBuf = s.outBuf := rfl
@[simp] theorem State.emptyPayload_heap : (s.emptyPayload).heap = s.heap := rfl
@[simp] theorem State.emptyPayload_draws : (s.emptyPayload).draws = s.draws + 1 := rfl
@[simp] theorem State.emptyPayload_prog : (s.emptyPayload).prog = s.prog := rfl
@[simp] theorem State.emptyPayload_sched : (s.emptyPayload).sched = s.sched := rfl
@[simp] theorem State.emptyPayload_rdata : (s.emptyPayload).rdata = s.rdata := rfl

/-! ### clearDatapath -/

@[simp] theorem State.clearDatapath_params : (s.clearDatapath).params = s.params := rfl
@[simp] theorem State.clearDatapath_phase : (s.clearDatapath).phase = s.phase := rfl
@[simp] theorem State.clearDatapath_pending : (s.clearDatapath).pending = s.pending := rfl
@[simp] theorem State.clearDatapath_done : (s.clearDatapath).done = s.done := rfl
@[simp] theorem State.clearDatapath_wdrop : (s.clearDatapath).wdrop = s.wdrop := rfl
@[simp] theorem State.clearDatapath_treeValid : (s.clearDatapath).treeValid = false := rfl
@[simp] theorem State.clearDatapath_codesValid : (s.clearDatapath).codesValid = false := rfl
@[simp] theorem State.clearDatapath_payloadValid : (s.clearDatapath).payloadValid = false := rfl
@[simp] theorem State.clearDatapath_err : (s.clearDatapath).err = s.err := rfl
@[simp] theorem State.clearDatapath_doneIe : (s.clearDatapath).doneIe = s.doneIe := rfl
@[simp] theorem State.clearDatapath_inLen : (s.clearDatapath).inLen = s.inLen := rfl
@[simp] theorem State.clearDatapath_outLen : (s.clearDatapath).outLen = 0#32 := rfl
@[simp] theorem State.clearDatapath_payLen : (s.clearDatapath).payLen = 0#32 := rfl
@[simp] theorem State.clearDatapath_pad : (s.clearDatapath).pad = 0#32 := rfl
@[simp] theorem State.clearDatapath_bitLen : (s.clearDatapath).bitLen = 0#32 := rfl
@[simp] theorem State.clearDatapath_symCount : (s.clearDatapath).symCount = 0#32 := rfl
@[simp] theorem State.clearDatapath_total : (s.clearDatapath).total = 0#32 := rfl
@[simp] theorem State.clearDatapath_treeRoot : (s.clearDatapath).treeRoot = 0 := rfl
@[simp] theorem State.clearDatapath_maxCodeLen : (s.clearDatapath).maxCodeLen = 0#32 := rfl
@[simp] theorem State.clearDatapath_errInfo : (s.clearDatapath).errInfo = s.errInfo := rfl
@[simp] theorem State.clearDatapath_inBuf : (s.clearDatapath).inBuf = s.inBuf := rfl
@[simp] theorem State.clearDatapath_freq : (s.clearDatapath).freq = Table.const 0#32 := rfl
@[simp] theorem State.clearDatapath_node : (s.clearDatapath).node = Arena.unused := rfl
@[simp] theorem State.clearDatapath_codeLen : (s.clearDatapath).codeLen = Table.const 0#8 := rfl
@[simp] theorem State.clearDatapath_codeBits : (s.clearDatapath).codeBits = Table.const 0#256 := rfl
@[simp] theorem State.clearDatapath_payload : (s.clearDatapath).payload = s.payload := rfl
@[simp] theorem State.clearDatapath_outBuf : (s.clearDatapath).outBuf = s.outBuf := rfl
@[simp] theorem State.clearDatapath_heap : (s.clearDatapath).heap = s.heap := rfl
@[simp] theorem State.clearDatapath_draws : (s.clearDatapath).draws = s.draws := rfl
@[simp] theorem State.clearDatapath_prog : (s.clearDatapath).prog = s.prog := rfl
@[simp] theorem State.clearDatapath_sched : (s.clearDatapath).sched = s.sched := rfl
@[simp] theorem State.clearDatapath_rdata : (s.clearDatapath).rdata = s.rdata := rfl

/-! ### The views and the composed updates -/

@[simp] theorem State.losePayload_eq : s.losePayload = s.setPayload [] := rfl

@[simp] theorem State.loseOutput_eq : s.loseOutput = s.setOutput [] := rfl

@[simp] theorem State.parseFailed_eq :
    s.parseFailed = { (s.invAll.loseFreq.setPayload []) with symCount := 0#32, total := 0#32 } := rfl

theorem State.codes_eq : s.codes = { len := s.codeLen, bits := s.codeBits } := rfl

theorem State.input_congr {s t : State} (hb : t.inBuf = s.inBuf) (hl : t.inLen = s.inLen) : t.input = s.input := by
  simp [State.input, hb, hl]

theorem State.packed_congr {s t : State} (hb : t.payload = s.payload) (hl : t.payLen = s.payLen) :
    t.packed = s.packed := by
  simp [State.packed, hb, hl]

theorem State.issue_idle {s : State} (h : s.phase = .idle) (c : Word) :
    s.issue c = { s with pending := c, phase := .busy, done := false, err := .none, errInfo := 0#32 } := by
  simp [State.issue, h]

theorem State.issue_busy {s : State} (h : s.phase = .busy) (c : Word) : s.issue c = s.dropWrite := by
  simp [State.issue, h, State.dropWrite]

theorem State.busy_iff {s : State} : s.busy = true ↔ s.phase = .busy := by simp [State.busy]

theorem State.busy_eq_false {s : State} : s.busy = false ↔ s.phase = .idle := by
  cases h : s.phase <;> simp [State.busy, h]

/-! ### drawn -/

@[simp] theorem State.drawn_params : (s.drawn).params = s.params := rfl
@[simp] theorem State.drawn_phase : (s.drawn).phase = s.phase := rfl
@[simp] theorem State.drawn_pending : (s.drawn).pending = s.pending := rfl
@[simp] theorem State.drawn_done : (s.drawn).done = s.done := rfl
@[simp] theorem State.drawn_wdrop : (s.drawn).wdrop = s.wdrop := rfl
@[simp] theorem State.drawn_treeValid : (s.drawn).treeValid = s.treeValid := rfl
@[simp] theorem State.drawn_codesValid : (s.drawn).codesValid = s.codesValid := rfl
@[simp] theorem State.drawn_payloadValid : (s.drawn).payloadValid = s.payloadValid := rfl
@[simp] theorem State.drawn_err : (s.drawn).err = s.err := rfl
@[simp] theorem State.drawn_doneIe : (s.drawn).doneIe = s.doneIe := rfl
@[simp] theorem State.drawn_inLen : (s.drawn).inLen = s.inLen := rfl
@[simp] theorem State.drawn_outLen : (s.drawn).outLen = s.outLen := rfl
@[simp] theorem State.drawn_payLen : (s.drawn).payLen = s.payLen := rfl
@[simp] theorem State.drawn_pad : (s.drawn).pad = s.pad := rfl
@[simp] theorem State.drawn_bitLen : (s.drawn).bitLen = s.bitLen := rfl
@[simp] theorem State.drawn_symCount : (s.drawn).symCount = s.symCount := rfl
@[simp] theorem State.drawn_total : (s.drawn).total = s.total := rfl
@[simp] theorem State.drawn_treeRoot : (s.drawn).treeRoot = s.treeRoot := rfl
@[simp] theorem State.drawn_maxCodeLen : (s.drawn).maxCodeLen = s.maxCodeLen := rfl
@[simp] theorem State.drawn_errInfo : (s.drawn).errInfo = s.errInfo := rfl
@[simp] theorem State.drawn_inBuf : (s.drawn).inBuf = s.inBuf := rfl
@[simp] theorem State.drawn_freq : (s.drawn).freq = s.freq := rfl
@[simp] theorem State.drawn_node : (s.drawn).node = s.node := rfl
@[simp] theorem State.drawn_codeLen : (s.drawn).codeLen = s.codeLen := rfl
@[simp] theorem State.drawn_codeBits : (s.drawn).codeBits = s.codeBits := rfl
@[simp] theorem State.drawn_payload : (s.drawn).payload = s.payload := rfl
@[simp] theorem State.drawn_outBuf : (s.drawn).outBuf = s.outBuf := rfl
@[simp] theorem State.drawn_heap : (s.drawn).heap = s.heap := rfl
@[simp] theorem State.drawn_draws : (s.drawn).draws = s.draws + 1 := rfl
@[simp] theorem State.drawn_prog : (s.drawn).prog = s.prog := rfl
@[simp] theorem State.drawn_sched : (s.drawn).sched = s.sched := rfl
@[simp] theorem State.drawn_rdata : (s.drawn).rdata = s.rdata := rfl

end Sys2Proof.Machine
end

