-- ==== Sys2Proof/Laws/Commands.lean ====
section
/-! SUPPORT. Once for each command body, for the completion and for the step: everything it can do. -/

namespace Sys2Proof.Machine

/-! ### Completion -/

/-- A command's outcome is a next state exactly if it ran to its end or raised an error; in both cases it has completed
(10_state R36, 60_exceptions R305). -/
theorem Effect.outcome_next {e : Effect} {t : State} : e.outcome = .next t ↔
    (∃ s, e = .done s ∧ t = s.succeed.complete) ∨ (∃ s er v, e = .raised s er v ∧ t = (s.raise er v).complete) := by
  cases e <;> simp [Effect.outcome, eq_comm]

theorem Effect.outcome_phase {e : Effect} {t : State} (h : e.outcome = .next t) : t.phase = .idle ∧ t.done = true := by
  rcases Effect.outcome_next.1 h with ⟨s, _, rfl⟩ | ⟨s, er, v, _, rfl⟩ <;> exact ⟨rfl, rfl⟩

theorem Effect.andThen_done {e : Effect} {k : State → Effect} {t : State} :
    e.andThen k = .done t ↔ ∃ s, e = .done s ∧ k s = .done t := by
  cases e <;> simp [Effect.andThen]

theorem Effect.andThen_raised {e : Effect} {k : State → Effect} {t : State} {er : ErrCode} {v : Word} :
    e.andThen k = .raised t er v ↔ e = .raised t er v ∨ ∃ s, e = .done s ∧ k s = .raised t er v := by
  cases e <;> simp [Effect.andThen]

/-! ### The bodies -/

theorem buildTreeBody_cases (s : State) :
    (∃ f, buildTree s.freq = .error (.fault f) ∧ buildTreeBody s = .fault f) ∨
    (∃ e info, buildTree s.freq = .error (.err e info) ∧
      buildTreeBody s = .raised { s.invTree with symCount := 0#32, total := 0#32 } e info) ∨
    (∃ b, buildTree s.freq = .ok b ∧ buildTreeBody s = .done { s.invCodes.loseHeap with
      node := b.arena, treeRoot := b.root, symCount := word b.count, total := word b.total, treeValid := true }) := by
  unfold buildTreeBody
  split <;> rename_i h
  · exact .inl ⟨_, h, rfl⟩
  · exact .inr (.inl ⟨_, _, h, rfl⟩)
  · exact .inr (.inr ⟨_, h, rfl⟩)

theorem genCodesBody_cases (s : State) :
    (s.treeValid = false ∧ genCodesBody s = .raised s .sequence treeBit) ∨
    (∃ f, s.treeValid = true ∧ genCodes s.node s.treeRoot = .error f ∧ genCodesBody s = .fault f) ∨
    (∃ c, s.treeValid = true ∧ genCodes s.node s.treeRoot = .ok c ∧ genCodesBody s = .done { s with
      codeLen := c.len, codeBits := c.bits, maxCodeLen := word c.maxLen, codesValid := true }) := by
  unfold genCodesBody
  split <;> rename_i hv
  · exact .inl ⟨hv, rfl⟩
  · have hv : s.treeValid = true := by simpa using hv
    split <;> rename_i h
    · exact .inr (.inl ⟨_, hv, h, rfl⟩)
    · exact .inr (.inr ⟨_, hv, h, rfl⟩)

theorem packBody_cases (s : State) :
    (s.codesValid = false ∧ packBody s = .raised s .sequence codesBit) ∨
    (∃ i, s.codesValid = true ∧ encodeBits s.codes 0 s.input = .error i ∧
      packBody s = .raised (s.invPay.setPayload []) .unknownSymbol (word i)) ∨
    (∃ bits, s.codesValid = true ∧ encodeBits s.codes 0 s.input = .ok bits ∧ s.params.payCap < packedLen bits ∧
      packBody s = .raised (s.invPay.setPayload []) .capacity (word (packedLen bits))) ∨
    (∃ bits, s.codesValid = true ∧ encodeBits s.codes 0 s.input = .ok bits ∧ packedLen bits ≤ s.params.payCap ∧
      packBody s = .done { s.setPayload (packBits bits) with
        payLen := word (packedLen bits), pad := word (padCount bits), bitLen := word bits.length
        payloadValid := true }) := by
  unfold packBody
  split <;> rename_i hv
  · exact .inl ⟨hv, rfl⟩
  · have hv : s.codesValid = true := by simpa using hv
    split <;> rename_i h
    · exact .inr (.inl ⟨_, hv, h, rfl⟩)
    · split <;> rename_i hc
      · exact .inr (.inr (.inl ⟨_, hv, h, hc, rfl⟩))
      · exact .inr (.inr (.inr ⟨_, hv, h, by omega, rfl⟩))

theorem serializeBody_cases (s : State) :
    (s.payloadValid = false ∧ serializeBody s = .raised s .sequence payloadBit) ∨
    (s.payloadValid = true ∧ s.params.outCap < s.blob.length ∧
      serializeBody s = .raised (s.setOutput []) .capacity (word s.blob.length)) ∨
    (s.payloadValid = true ∧ s.blob.length ≤ s.params.outCap ∧ serializeBody s = .done (s.setOutput s.blob)) := by
  unfold serializeBody
  split <;> rename_i hv
  · exact .inl ⟨hv, rfl⟩
  · have hv : s.payloadValid = true := by simpa using hv
    split <;> rename_i hc
    · exact .inr (.inl ⟨hv, hc, rfl⟩)
    · exact .inr (.inr ⟨hv, by omega, rfl⟩)

theorem parseBody_cases (s : State) :
    (∃ o, parseBlob s.input = .error o ∧ parseBody s = .raised s.parseFailed .malformedHeader (word o)) ∨
    (∃ r, parseBlob s.input = .ok r ∧ s.params.payCap < r.payload.length ∧
      parseBody s = .raised s.parseFailed .capacity (word r.payload.length)) ∨
    (∃ r, parseBlob s.input = .ok r ∧ r.payload.length ≤ s.params.payCap ∧
      parseBody s = .done { s.invAll.setPayload r.payload with
        freq := r.freq, symCount := word r.count, total := word r.total
        payLen := word r.payload.length, pad := word r.pad, bitLen := word (8 * r.payload.length - r.pad)
        payloadValid := true }) := by
  unfold parseBody
  split <;> rename_i h
  · exact .inl ⟨_, h, rfl⟩
  · split <;> rename_i hc
    · exact .inr (.inl ⟨_, h, hc, rfl⟩)
    · exact .inr (.inr ⟨_, h, by omega, rfl⟩)

/-- WALK misses no valid bit exactly if both are set (42_decode R211). -/
theorem State.walkMissing_eq_zero {s : State} :
    s.walkMissing = 0#32 ↔ s.treeValid = true ∧ s.payloadValid = true := by
  cases ht : s.treeValid <;> cases hp : s.payloadValid <;>
    simp [State.walkMissing, ht, hp, treeBit, payloadBit]

theorem walkBody_cases (s : State) :
    (s.walkMissing ≠ 0#32 ∧ walkBody s = .raised s .sequence s.walkMissing) ∨
    (∃ e info, s.treeValid = true ∧ s.payloadValid = true ∧
      walkBits s.node s.treeRoot (unpackBits s.packed s.pad.toNat) s.params.outCap = .error (e, info) ∧
      walkBody s = .raised (s.setOutput []) e info) ∨
    (∃ out, s.treeValid = true ∧ s.payloadValid = true ∧
      walkBits s.node s.treeRoot (unpackBits s.packed s.pad.toNat) s.params.outCap = .ok out ∧
      walkBody s = .done (s.setOutput out)) := by
  unfold walkBody
  split <;> rename_i hm
  · exact .inl ⟨hm, rfl⟩
  · obtain ⟨ht, hp⟩ := State.walkMissing_eq_zero.1 (by simpa using hm)
    split <;> rename_i h
    · exact .inr (.inl ⟨_, _, ht, hp, h, rfl⟩)
    · exact .inr (.inr ⟨_, ht, hp, h, rfl⟩)

/-- DECODE after a PARSE that succeeds (42_decode R212). -/
theorem decodeBody_of_parse {s p : State} (h : parseBody s = .done p) : decodeBody s =
    if p.symCount = 0#32 then .done (p.setOutput []) else (buildTreeBody p).andThen walkBody := by
  simp only [decodeBody, h, Effect.andThen]

/-- DECODE after a PARSE that fails (42_decode R212). -/
theorem decodeBody_of_parse_raised {s p : State} {e : ErrCode} {v : Word} (h : parseBody s = .raised p e v) :
    decodeBody s = .raised p e v := by
  simp only [decodeBody, h, Effect.andThen]

/-! ### The step -/

/-- The CORE's turn: nothing while IDLE, else the decoded instruction or the illegal word (10_state R36). -/
theorem coreTurn_cases (s : State) :
    (s.phase = .idle ∧ s.coreTurn = .next s) ∨
    (∃ i, s.phase = .busy ∧ decode s.pending = .ok i ∧ s.coreTurn = exec i s) ∨
    (∃ e, s.phase = .busy ∧ decode s.pending = .error e ∧ s.coreTurn = execIllegal s) := by
  unfold State.coreTurn
  split <;> rename_i hp
  · exact .inl ⟨hp, rfl⟩
  · split <;> rename_i h
    · exact .inr (.inl ⟨_, hp, h, rfl⟩)
    · exact .inr (.inr ⟨_, hp, h, rfl⟩)

theorem step_eq {s : State} {t : Turn} {ts : List Turn} (h : s.nextTurn = (t, ts)) :
    step s = { s with sched := ts }.take t := by
  simp [step, State.advance, h]

/-- Whose turn it is, and what is left of the schedule (60_exceptions R322, 70_reset R366). -/
theorem nextTurn_cases (s : State) :
    (∃ t ts, s.sched = t :: ts ∧ s.nextTurn = (t, ts)) ∨
    (s.sched = [] ∧ s.phase = .busy ∧ s.nextTurn = (.core, [])) ∨
    (s.sched = [] ∧ s.phase = .idle ∧ s.nextTurn = (.host, [])) := by
  unfold State.nextTurn
  split <;> rename_i h
  · exact .inl ⟨_, _, h, rfl⟩
  · split <;> rename_i hp
    · exact .inr (.inl ⟨h, hp, rfl⟩)
    · exact .inr (.inr ⟨h, hp, rfl⟩)

/-- A step is a HOST turn, a CORE turn, or RESET, on the state whose schedule has lost that turn (00_scope R7). -/
theorem step_cases (s : State) :
    ∃ ts, ts.length ≤ s.sched.length ∧
      (step s = .next { s with sched := ts }.hostTurn ∨
       step s = { s with sched := ts }.coreTurn ∨
       (s.sched = .reset :: ts ∧ step s = .next { s with sched := ts }.resetEvent)) := by
  rcases nextTurn_cases s with ⟨t, ts, hs, hn⟩ | ⟨hs, _, hn⟩ | ⟨hs, _, hn⟩
  · refine ⟨ts, by simp [hs], ?_⟩
    rw [step_eq hn]
    cases t with
    | host => exact .inl rfl
    | core => exact .inr (.inl rfl)
    | reset => exact .inr (.inr ⟨hs, rfl⟩)
  · exact ⟨[], by simp, .inr (.inl (step_eq hn))⟩
  · exact ⟨[], by simp, .inl (step_eq hn)⟩

end Sys2Proof.Machine
end

