-- ==== Sys2Proof/Laws/Datapath.lean ====
section
/-! SUPPORT. Small laws of the integer encodings and of the bit strings. -/

namespace Sys2Proof.Machine

@[simp] theorem length_le32 (v : Nat) : (le32 v).length = 4 := rfl

/-- Reading back the four bytes of a 32-bit value (00_scope R13). -/
theorem rdle32_of_le32 {v : Nat} (h : v < 2 ^ 32) :
    rdle32 (BitVec.ofNat 8 v) (BitVec.ofNat 8 (v / 256)) (BitVec.ofNat 8 (v / 65536))
      (BitVec.ofNat 8 (v / 16777216)) = v := by
  simp only [rdle32, BitVec.toNat_ofNat]
  omega

theorem rdle32_lt (b0 b1 b2 b3 : Byte) : rdle32 b0 b1 b2 b3 < 2 ^ 32 := by
  have h0 := b0.isLt; have h1 := b1.isLt; have h2 := b2.isLt; have h3 := b3.isLt
  simp only [rdle32]; omega

/-- The bytes of a value read from four bytes are those bytes. -/
theorem le32_of_rdle32 (b0 b1 b2 b3 : Byte) : le32 (rdle32 b0 b1 b2 b3) = [b0, b1, b2, b3] := by
  have h0 := b0.isLt; have h1 := b1.isLt; have h2 := b2.isLt; have h3 := b3.isLt
  simp only [le32, rdle32, List.cons.injEq, and_true]
  refine ⟨?_, ?_, ?_, ?_⟩ <;> apply BitVec.eq_of_toNat_eq <;> rw [BitVec.toNat_ofNat] <;> omega

theorem sint32_of_lt {u : Nat} (h : u < 2 ^ 31) : sint32 u = u := if_pos h

theorem sint32_neg {u : Nat} (h : 2 ^ 31 ≤ u) (h' : u < 2 ^ 32) : sint32 u < 0 := by
  rw [sint32, if_neg (by omega)]; omega

@[simp] theorem toNat_word {n : Nat} (h : n < 2 ^ 32) : (word n).toNat = n := by
  simp only [word, BitVec.toNat_ofNat]; exact Nat.mod_eq_of_lt h

@[simp] theorem length_bitsOf (b : Byte) : (bitsOf b).length = 8 := by simp [bitsOf]

@[simp] theorem length_packBytes (m : Nat) (bits : Bits) : (packBytes m bits).length = m := by
  induction m generalizing bits with
  | zero => rfl
  | succ m ih => simp [packBytes, ih]

@[simp] theorem length_packBits (bits : Bits) : (packBits bits).length = packedLen bits := length_packBytes ..

theorem padCount_le (bits : Bits) : padCount bits ≤ 7 := by simp only [padCount]; omega

/-- BIT_LEN = 8 * PAY_LEN - PAD (10_state R42). -/
theorem length_add_padCount (bits : Bits) : bits.length + padCount bits = 8 * packedLen bits := by
  simp only [padCount, packedLen]; omega

end Sys2Proof.Machine
end

