-- ==== Sys2Proof/Laws/Memory.lean ====
section
/-! SUPPORT. The laws of the buffers: read after write, the canonical form, and the bytes of a run. -/

namespace Sys2Proof.Machine

/-! ### Lists of cells -/

theorem lookup_insert_same (cs : List Host.Cell) (i : Nat) (v : Byte) : lookupCell (insertCell cs i v) i = some v := by
  induction cs with
  | nil => simp [insertCell, lookupCell]
  | cons c cs ih =>
    obtain ⟨a, w⟩ := c
    simp only [insertCell]
    split
    · simp [lookupCell]
    · split
      · simp [lookupCell]
      · have : a ≠ i := by omega
        simp [lookupCell, this, ih]

theorem lookup_insert_other (cs : List Host.Cell) {i j : Nat} (v : Byte) (h : j ≠ i) :
    lookupCell (insertCell cs i v) j = lookupCell cs j := by
  induction cs with
  | nil => simp [insertCell, lookupCell, Ne.symm h]
  | cons c cs ih =>
    obtain ⟨a, w⟩ := c
    simp only [insertCell]
    split
    · simp [lookupCell, Ne.symm h]
    · split
      · rename_i _ e; subst e; simp [lookupCell, Ne.symm h]
      · simp [lookupCell, ih]

/-- Every index in the list is above `lo`. -/
def Above (lo : Nat) (cs : List Host.Cell) : Prop := ∀ c ∈ cs, lo < c.1

theorem rising_cons (c : Host.Cell) (cs : List Host.Cell) :
    rising (c :: cs) = true ↔ Above c.1 cs ∧ rising cs = true := by
  induction cs generalizing c with
  | nil => simp [rising, Above]
  | cons d ds ih =>
    simp only [rising, Bool.and_eq_true, decide_eq_true_eq]
    rw [ih d]
    constructor
    · rintro ⟨h, h1, h2⟩
      refine ⟨?_, h1, h2⟩
      intro x hx
      rcases List.mem_cons.1 hx with rfl | hx
      · exact h
      · exact Nat.lt_trans h (h1 x hx)
    · rintro ⟨h, h1, h2⟩
      exact ⟨h d (List.mem_cons_self ..), h1, h2⟩

theorem mem_insertCell {cs : List Host.Cell} {i : Nat} {v : Byte} {c : Host.Cell} (h : c ∈ insertCell cs i v) :
    c = (i, v) ∨ c ∈ cs := by
  induction cs with
  | nil => simpa [insertCell] using h
  | cons d ds ih =>
    obtain ⟨a, w⟩ := d
    simp only [insertCell] at h
    split at h
    · rcases List.mem_cons.1 h with rfl | h
      · exact .inl rfl
      · exact .inr h
    · split at h
      · rcases List.mem_cons.1 h with rfl | h
        · exact .inl rfl
        · exact .inr (List.mem_cons_of_mem _ h)
      · rcases List.mem_cons.1 h with rfl | h
        · exact .inr (List.mem_cons_self ..)
        · exact (ih h).imp id (List.mem_cons_of_mem _)

theorem rising_insertCell {cs : List Host.Cell} (h : rising cs = true) (i : Nat) (v : Byte) :
    rising (insertCell cs i v) = true := by
  induction cs with
  | nil => simp [insertCell, rising]
  | cons d ds ih =>
    obtain ⟨a, w⟩ := d
    obtain ⟨ha, hr⟩ := (rising_cons _ _).1 h
    simp only [insertCell]
    split
    · rename_i hi
      refine (rising_cons _ _).2 ⟨?_, h⟩
      intro x hx
      rcases List.mem_cons.1 hx with rfl | hx
      · exact hi
      · exact Nat.lt_trans hi (ha x hx)
    · split
      · rename_i e; subst e; exact (rising_cons _ _).2 ⟨ha, hr⟩
      · refine (rising_cons _ _).2 ⟨?_, ih hr⟩
        intro x hx
        rcases mem_insertCell hx with rfl | hx
        · show a < i; omega
        · exact ha x hx

theorem mem_cellsFrom {i : Nat} {bs : List Byte} {c : Host.Cell} (h : c ∈ cellsFrom i bs) :
    i ≤ c.1 ∧ c.1 < i + bs.length := by
  induction bs generalizing i with
  | nil => simp [cellsFrom] at h
  | cons b bs ih =>
    rcases List.mem_cons.1 h with rfl | h
    · simp
    · have := ih h; simp only [List.length_cons]; omega

theorem rising_cellsFrom (i : Nat) (bs : List Byte) : rising (cellsFrom i bs) = true := by
  induction bs generalizing i with
  | nil => rfl
  | cons b bs ih =>
    refine (rising_cons _ _).2 ⟨?_, ih _⟩
    intro x hx
    exact (mem_cellsFrom hx).1

/-! ### Buffers -/

@[simp] theorem Memory.read_write_same (m : Memory) (i : Nat) (v : Byte) : (m.write i v).read i = v := by
  simp [Memory.read, Memory.write, lookup_insert_same]

theorem Memory.read_write_other (m : Memory) {i j : Nat} (v : Byte) (h : j ≠ i) :
    (m.write i v).read j = m.read j := by
  simp [Memory.read, Memory.write, lookup_insert_other _ _ h]

theorem Memory.wf_drawn (seed : Nat) : (Memory.drawn seed).wf = true := rfl

theorem Memory.wf_filled (seed : Nat) (bs : List Byte) : (Memory.filled seed bs).wf = true := rising_cellsFrom 0 bs

theorem Memory.wf_write {m : Memory} (h : m.wf = true) (i : Nat) (v : Byte) : (m.write i v).wf = true :=
  rising_insertCell h i v

theorem Memory.wf_writeWord {m : Memory} (h : m.wf = true) (cap i : Nat) (v : Word) :
    (m.writeWord cap i v).wf = true := by
  unfold Memory.writeWord
  split
  · exact wf_write (wf_write (wf_write (wf_write h _ _) _ _) _ _) _ _
  · exact h

theorem Memory.within_drawn (seed cap : Nat) : (Memory.drawn seed).within cap = true := rfl

theorem Memory.within_filled (seed : Nat) {bs : List Byte} {cap : Nat} (h : bs.length ≤ cap) :
    (Memory.filled seed bs).within cap = true := by
  simp only [Memory.within, Memory.filled, List.all_eq_true, decide_eq_true_eq]
  intro c hc
  have := mem_cellsFrom hc
  omega

theorem Memory.within_write {m : Memory} {cap i : Nat} (h : m.within cap = true) (hi : i < cap) (v : Byte) :
    (m.write i v).within cap = true := by
  simp only [Memory.within, Memory.write, List.all_eq_true, decide_eq_true_eq] at *
  intro c hc
  rcases mem_insertCell hc with rfl | hc
  · exact hi
  · exact h c hc

/-- A word write at a multiple of 4 stays inside a capacity that is a multiple of 4 (20_memory R83). -/
theorem Memory.within_writeWord {m : Memory} {cap i : Nat} (h : m.within cap = true) (hc : cap % 4 = 0)
    (hi : i % 4 = 0) (v : Word) : (m.writeWord cap i v).within cap = true := by
  unfold Memory.writeWord
  split
  · exact within_write (within_write (within_write (within_write h (by omega) _) (by omega) _) (by omega) _)
      (by omega) _
  · exact h

/-! ### Runs of bytes -/

theorem lookup_of_above {cs : List Host.Cell} {i lo : Nat} (h : Above lo cs) (hi : i ≤ lo) : lookupCell cs i = none := by
  induction cs with
  | nil => rfl
  | cons c cs ih =>
    obtain ⟨a, v⟩ := c
    have ha : lo < a := h (a, v) (List.mem_cons_self ..)
    have hne : a ≠ i := by omega
    simp only [lookupCell, hne, if_false]
    exact ih fun x hx => h x (List.mem_cons_of_mem _ hx)

theorem runFrom_eq_map (seed n i : Nat) (cs : List Host.Cell) (hr : rising cs = true) (hi : ∀ c ∈ cs, i ≤ c.1) :
    runFrom seed n i cs = (List.range n).map fun k => (lookupCell cs (i + k)).getD (Config.freeByte seed (i + k)) := by
  induction n generalizing i cs with
  | zero => rfl
  | succ n ih =>
    rw [List.range_succ_eq_map, List.map_cons, List.map_map]
    cases cs with
    | nil =>
      simp only [runFrom, ih (i + 1) [] rfl (by simp), lookupCell, Nat.add_zero, Option.getD_none]
      congr 1
      apply List.map_congr_left
      intro k _
      simp [Function.comp, Nat.add_comm, Nat.add_left_comm]
    | cons c cs =>
      obtain ⟨a, v⟩ := c
      obtain ⟨ha, hr'⟩ := (rising_cons _ _).1 hr
      simp only [runFrom, Nat.add_zero]
      split
      · rename_i e; subst e
        rw [ih (a + 1) cs hr' (fun c hc => ha c hc)]
        simp only [lookupCell, if_true, Option.getD_some]
        congr 1
        apply List.map_congr_left
        intro k _
        have : a ≠ a + (k + 1) := by omega
        simp [Function.comp, Nat.add_comm, Nat.add_left_comm]
      · rename_i hne
        have hle : i ≤ a := hi (a, v) (List.mem_cons_self ..)
        have hlt : i < a := by omega
        rw [ih (i + 1) ((a, v) :: cs) hr ?_]
        · have hnone : lookupCell ((a, v) :: cs) i = none := by
            refine lookup_of_above (lo := i) ?_ (Nat.le_refl _)
            intro c hc
            rcases List.mem_cons.1 hc with rfl | hc
            · exact hlt
            · exact Nat.lt_trans hlt (ha c hc)
          rw [hnone]
          simp only [Option.getD_none]
          congr 1
          apply List.map_congr_left
          intro k _
          simp [Function.comp, Nat.add_comm, Nat.add_left_comm]
        · intro c hc
          rcases List.mem_cons.1 hc with rfl | hc
          · exact hlt
          · have := ha c hc; simp at this; omega

/-- On a well-formed buffer, `BUF[0..n)` is byte after byte what reading gives. -/
theorem Memory.bytes_eq_map_read {m : Memory} (h : m.wf = true) (n : Nat) : m.bytes n = (List.range n).map m.read := by
  rw [Memory.bytes, runFrom_eq_map _ _ _ _ h (by simp)]
  simp [Memory.read]

@[simp] theorem length_runFrom (seed n i : Nat) (cs : List Host.Cell) : (runFrom seed n i cs).length = n := by
  induction n generalizing i cs with
  | zero => rfl
  | succ n ih =>
    cases cs with
    | nil => simp [runFrom, ih]
    | cons c cs => obtain ⟨a, v⟩ := c; simp only [runFrom]; split <;> simp [ih]

@[simp] theorem Memory.length_bytes (m : Memory) (n : Nat) : (m.bytes n).length = n := length_runFrom ..

theorem runFrom_cellsFrom (seed i : Nat) (bs : List Byte) : runFrom seed bs.length i (cellsFrom i bs) = bs := by
  induction bs generalizing i with
  | nil => rfl
  | cons b bs ih => simp [runFrom, cellsFrom, ih]

/-- A buffer filled with bytes holds them. -/
@[simp] theorem Memory.bytes_filled (seed : Nat) (bs : List Byte) : (Memory.filled seed bs).bytes bs.length = bs :=
  runFrom_cellsFrom seed 0 bs

/-! ### What a read shows of a buffer -/

theorem Memory.shownByte_within {m : Memory} {len seed i : Nat} (h : i < len) : m.shownByte len seed i = m.read i :=
  if_pos h

theorem Memory.shownByte_past {m : Memory} {len seed i : Nat} (h : len ≤ i) :
    m.shownByte len seed i = Config.freeByte seed i := if_neg (by omega)

theorem Memory.shownWord_beyond {m : Memory} {cap len seed i : Nat} (h : cap ≤ i) :
    m.shownWord cap len seed i = 0#32 := if_neg (by omega)

/-- A word wholly inside the length reads as the buffer holds it (20_memory R83). -/
theorem Memory.shownWord_within {m : Memory} {cap len seed i : Nat} (h : i + 4 ≤ len) :
    m.shownWord cap len seed i = m.readWord cap i := by
  unfold Memory.shownWord Memory.readWord
  rw [shownByte_within (by omega), shownByte_within (by omega), shownByte_within (by omega),
    shownByte_within (by omega)]

/-- The buffers of every reset state are in canonical form. -/
theorem State.resetWith_buffers_wf (p : Params) (d : Nat) :
    (State.resetWith p d).inBuf.wf = true ∧ (State.resetWith p d).payload.wf = true ∧
      (State.resetWith p d).outBuf.wf = true := ⟨rfl, rfl, rfl⟩

theorem State.reset_buffers_wf :
    State.reset.inBuf.wf = true ∧ State.reset.payload.wf = true ∧ State.reset.outBuf.wf = true :=
  State.resetWith_buffers_wf _ _

end Sys2Proof.Machine
end

