-- ==== Sys2Proof/Laws/PerInstr.lean ====
section
/-! SUPPORT. Statements about every instruction as syntax, one lemma per constructor. -/

namespace Sys2Proof.Laws.LegalWord

/-- The instruction is well formed and its command word is legal: RSVD zero and OPC listed (30_encoding R110, R112). -/
def Statement (i : Instr) : Prop := i.wf = true ∧ wordWf (encode i) = true

theorem nop : Statement .nop := ⟨rfl, by decide⟩
theorem clear : Statement .clear := ⟨rfl, by decide⟩
theorem analyze : Statement .analyze := ⟨rfl, by decide⟩
theorem buildTree : Statement .buildTree := ⟨rfl, by decide⟩
theorem genCodes : Statement .genCodes := ⟨rfl, by decide⟩
theorem pack : Statement .pack := ⟨rfl, by decide⟩
theorem serialize : Statement .serialize := ⟨rfl, by decide⟩
theorem encode : Statement .encode := ⟨rfl, by decide⟩
theorem parse : Statement .parse := ⟨rfl, by decide⟩
theorem walk : Statement .walk := ⟨rfl, by decide⟩
theorem decode : Statement .decode := ⟨rfl, by decide⟩

end Sys2Proof.Laws.LegalWord
end

