-- ==== Sys2Proof/Laws/Tables.lean ====
section
/-! SUPPORT. The laws of symbol tables, of the list of present symbols, and of the arena image. -/

namespace Sys2Proof.Machine

/-! ### Tables -/

@[simp] theorem Table.at_put_same {α : Type} (t : Table α) (b : Byte) (v : α) : Table.at (Table.put t b v) b = v := by
  simp [Table.at, Table.put]

theorem Table.at_put_other {α : Type} (t : Table α) {b b' : Byte} (v : α) (h : b' ≠ b) :
    Table.at (Table.put t b v) b' = Table.at t b' := by
  have : b.toNat ≠ b'.toNat := fun e => h (BitVec.eq_of_toNat_eq e.symm)
  simp [Table.at, Table.put, this]

@[simp] theorem Table.at_const {α : Type} (v : α) (b : Byte) : Table.at (Table.const v) b = v := by
  simp [Table.at, Table.const]

/-- Two tables with the same entries are the same table. -/
theorem Table.ext_at {α : Type} {t u : Table α} (h : ∀ b : Byte, Table.at t b = Table.at u b) : t = u := by
  apply Vector.ext
  intro i hi
  have := h (BitVec.ofNat 8 i)
  have hm : i % 256 = i := Nat.mod_eq_of_lt hi
  simpa [Table.at, BitVec.toNat_ofNat, hm] using this

@[simp] theorem length_allSymbols : allSymbols.length = 256 := by simp [allSymbols]

theorem getElem_allSymbols {i : Nat} (h : i < allSymbols.length) : allSymbols[i] = BitVec.ofNat 8 i := by
  simp [allSymbols]

theorem mem_allSymbols (b : Byte) : b ∈ allSymbols := by
  refine List.mem_map.2 ⟨b.toNat, List.mem_range.2 b.isLt, ?_⟩
  simp

/-- The symbols stand in strictly ascending order. -/
theorem allSymbols_ascending : allSymbols.Pairwise fun a b => a.toNat < b.toNat := by
  rw [List.pairwise_iff_getElem]
  intro i j hi hj hij
  simp only [length_allSymbols] at hi hj
  rw [getElem_allSymbols, getElem_allSymbols, BitVec.toNat_ofNat, BitVec.toNat_ofNat]
  have h1 : i % 2 ^ 8 = i := Nat.mod_eq_of_lt hi
  have h2 : j % 2 ^ 8 = j := Nat.mod_eq_of_lt hj
  omega

@[simp] theorem Table.at_tabulate {α : Type} (f : Byte → α) (b : Byte) : Table.at (Table.tabulate f) b = f b := by
  have h : b.toNat < allSymbols.length := by simpa using b.isLt
  have : (allSymbols.map f)[b.toNat]'(by simpa using h) = f b := by
    rw [List.getElem_map, getElem_allSymbols h]; simp
  simpa [Table.at, Table.tabulate] using this

/-! ### Present symbols -/

theorem getElem_zip_table (F : Table Word) {i : Nat} (h : i < (allSymbols.zip F.toList).length) :
    (allSymbols.zip F.toList)[i] = (BitVec.ofNat 8 i, F.toList[i]'(by simpa using h)) := by
  rw [List.getElem_zip, getElem_allSymbols]

/-- The pairs the present symbols are filtered from are the symbols with their entries. -/
theorem zip_table_eq (F : Table Word) :
    allSymbols.zip F.toList = allSymbols.map fun b => (b, Table.at F b) := by
  apply List.ext_getElem
  · simp
  · intro i h1 h2
    have hi : i < 256 := by simpa using h1
    have hm : i % 256 = i := Nat.mod_eq_of_lt hi
    rw [getElem_zip_table, List.getElem_map, getElem_allSymbols]
    simp [Table.at, BitVec.toNat_ofNat, hm]

/-- The present symbols are the symbols with a non-zero entry, in ascending order (10_state R49). -/
theorem present_eq_filter (F : Table Word) : present F = allSymbols.filter fun b => Table.at F b != 0#32 := by
  rw [present, zip_table_eq, List.filter_map, List.map_map]
  simp [Function.comp_def]

theorem freqOf_eq_zero {F : Table Word} {b : Byte} : freqOf F b = 0 ↔ Table.at F b = 0#32 := by
  rw [freqOf]
  constructor
  · intro h; exact BitVec.eq_of_toNat_eq (by simpa using h)
  · intro h; simp [h]

theorem mem_present {F : Table Word} {b : Byte} : b ∈ present F ↔ freqOf F b ≠ 0 := by
  rw [present_eq_filter, List.mem_filter, Ne, freqOf_eq_zero]
  simp [mem_allSymbols]

theorem present_ascending (F : Table Word) : (present F).Pairwise fun a b => a.toNat < b.toNat := by
  rw [present_eq_filter]; exact allSymbols_ascending.filter _

theorem present_nodup (F : Table Word) : (present F).Nodup :=
  (present_ascending F).imp fun h e => by subst e; exact Nat.lt_irrefl _ h

theorem length_present_le (F : Table Word) : (present F).length ≤ 256 := by
  rw [present_eq_filter]
  exact Nat.le_trans (List.length_filter_le ..) (by simp)

/-- The sum over all symbols is the sum over the present ones. -/
theorem sum_present (F : Table Word) :
    ((present F).map (freqOf F)).sum = (allSymbols.map (freqOf F)).sum := by
  rw [present_eq_filter]
  induction allSymbols with
  | nil => rfl
  | cons b bs ih =>
    by_cases h : Table.at F b = 0#32
    · simp [h, ih, freqOf_eq_zero.2 h]
    · simp [h, ih]

/-! ### Counting -/

theorem occurrences_eq_count (b : Byte) (input : List Byte) : occurrences b.toNat input = input.count b := by
  induction input with
  | nil => rfl
  | cons x xs ih =>
    by_cases h : x = b
    · subst h; simp [occurrences, ih]
    · have hn : x.toNat ≠ b.toNat := fun e => h (BitVec.eq_of_toNat_eq e)
      have : Nat.beq x.toNat b.toNat = false :=
        Bool.eq_false_iff.2 fun hb => hn (Nat.eq_of_beq_eq_true hb)
      simp [occurrences, ih, this, h]

/-- Count's entry of a symbol (40_datapath R130). -/
theorem at_countSymbols (input : List Byte) (b : Byte) :
    Table.at (countSymbols input) b = word (input.count b) := by
  rw [countSymbols, Table.at_tabulate, occurrences_eq_count]

/-! ### The arena image -/

theorem getElem_arenaOf (entries : List Node) (j : NodeIdx) :
    (arenaOf entries)[j] = (entries[j.val]?).getD Node.unused := by
  have hj := j.isLt
  show ((entries ++ List.replicate 511 Node.unused).take 511)[j.val]'(by
    rw [padded_length]; exact hj) = _
  rw [List.getElem_take]
  by_cases h : j.val < entries.length
  · rw [List.getElem_append_left h, List.getElem?_eq_getElem h, Option.getD_some]
  · have h' : entries.length ≤ j.val := Nat.le_of_not_lt h
    rw [List.getElem_append_right h', List.getElem?_eq_none h', List.getElem_replicate, Option.getD_none]

end Sys2Proof.Machine
end

