-- ==== Sys2Proof/Laws/Queue.lean ====
section
/-! SUPPORT. The laws of the priority queue that do not need its order: contents, lengths, and that the tree builder
never pops an empty queue. -/

namespace Sys2Proof.Machine

/-- The ordering key in plain words (40_datapath R131). -/
theorem keyLt_iff {a b : Key} : keyLt a b = true ↔ a.freq < b.freq ∨ (a.freq = b.freq ∧ a.idx < b.idx) := by
  simp only [keyLt, Bool.or_eq_true, Bool.and_eq_true, Nat.blt_eq, Fin.lt_def]
  constructor
  · rintro (h | ⟨h, h'⟩)
    · exact .inl h
    · exact .inr ⟨Nat.eq_of_beq_eq_true h, h'⟩
  · rintro (h | ⟨h, h'⟩)
    · exact .inl h
    · exact .inr ⟨by rw [h]; exact Nat.beq_refl _, h'⟩

theorem keyLt_irrefl (a : Key) : keyLt a a = false := by
  rw [Bool.eq_false_iff]; intro h; rcases keyLt_iff.1 h with h | ⟨_, h⟩
  · exact Nat.lt_irrefl _ h
  · exact absurd h (lt_irrefl _)

theorem keyLt_trans {a b c : Key} (h1 : keyLt a b = true) (h2 : keyLt b c = true) : keyLt a c = true := by
  rw [keyLt_iff] at *
  simp only [Fin.lt_def] at *
  omega

/-- Keys of distinct arena indices never tie (40_datapath R131). -/
theorem keyLt_total {a b : Key} (h : a.idx ≠ b.idx) : keyLt a b = true ∨ keyLt b a = true := by
  have hv : a.idx.val ≠ b.idx.val := fun e => h (Fin.ext e)
  simp only [keyLt_iff, Fin.lt_def]
  omega

/-! ### Contents -/

theorem Heap.swap_perm (h : Heap) (p q : Nat) : (Heap.swap h p q).Perm h := by
  unfold Heap.swap
  split
  · rename_i a b ha hb
    obtain ⟨hp, rfl⟩ := List.getElem?_eq_some_iff.1 ha
    obtain ⟨hq, rfl⟩ := List.getElem?_eq_some_iff.1 hb
    exact List.set_set_perm hp hq
  · exact .refl _

theorem Heap.siftDown_perm (rounds : Nat) (h : Heap) (i : Nat) : (Heap.siftDown rounds h i).Perm h := by
  induction rounds generalizing h i with
  | zero => exact .refl _
  | succ rounds ih =>
    simp only [Heap.siftDown]
    split
    · exact .refl _
    · exact (ih _ _).trans (Heap.swap_perm ..)

theorem Heap.siftUp_perm (rounds : Nat) (h : Heap) (i : Nat) : (Heap.siftUp rounds h i).Perm h := by
  induction rounds generalizing h i with
  | zero => exact .refl _
  | succ rounds ih =>
    simp only [Heap.siftUp]
    split
    · exact (ih _ _).trans (Heap.swap_perm ..)
    · exact .refl _

theorem Heap.heapify_perm (k : Nat) (h : Heap) : (Heap.heapify k h).Perm h := by
  induction k generalizing h with
  | zero => exact .refl _
  | succ k ih => exact (ih _).trans (Heap.siftDown_perm ..)

/-- HeapBuild keeps the contents (40_datapath R134). -/
theorem Heap.build_perm (list : List Key) : (Heap.build list).Perm list := Heap.heapify_perm ..

/-- Push adds its index to the contents (40_datapath R135). -/
theorem Heap.push_perm (h : Heap) (j : Key) : (Heap.push h j).Perm (j :: h) :=
  (Heap.siftUp_perm ..).trans (List.perm_append_singleton ..)

/-- Pop of a queue with contents takes one key out of them (40_datapath R135). -/
theorem Heap.pop_perm {h : Heap} (hne : h ≠ []) :
    ∃ top h', Heap.pop h = .ok (top, h') ∧ h.head? = some top ∧ (top :: h').Perm h := by
  match h, hne with
  | [top], _ => exact ⟨top, [], rfl, rfl, .refl _⟩
  | top :: a :: rest, _ =>
    refine ⟨top, _, rfl, rfl, List.Perm.cons _ ?_⟩
    refine (Heap.siftDown_perm ..).trans ?_
    have h := (List.perm_append_singleton ((a :: rest).getLast (List.cons_ne_nil a rest))
      (a :: rest).dropLast).symm
    rwa [List.dropLast_append_getLast] at h

/-- Pop faults on the empty queue and nowhere else (60_exceptions R301). -/
theorem Heap.pop_error {h : Heap} {f : Fault} : Heap.pop h = .error f ↔ h = [] ∧ f = .emptyQueue := by
  constructor
  · intro he
    by_cases hne : h = []
    · subst hne
      simp only [Heap.pop, Except.error.injEq] at he
      exact ⟨rfl, he.symm⟩
    · obtain ⟨top, h', hp, _⟩ := Heap.pop_perm hne
      rw [hp] at he; cases he
  · rintro ⟨rfl, rfl⟩; rfl

@[simp] theorem Heap.length_build (list : List Key) : (Heap.build list).length = list.length :=
  (Heap.build_perm list).length_eq

@[simp] theorem Heap.length_push (h : Heap) (j : Key) : (Heap.push h j).length = h.length + 1 := by
  simpa using (Heap.push_perm h j).length_eq

/-! ### The builder's loop -/

/-- A round on two keys or more succeeds and lowers HSIZE by one (40_datapath R135, R140). -/
theorem mergeTwo_ok {h : Heap} (hl : 2 ≤ h.length) (next : Nat) :
    ∃ node h', mergeTwo h next = .ok (node, h') ∧ h'.length + 1 = h.length := by
  obtain ⟨l, h1, e1, _, p1⟩ := Heap.pop_perm (h := h) (by rintro rfl; simp at hl)
  have l1 : h1.length + 1 = h.length := by simpa using p1.length_eq
  obtain ⟨r, h2, e2, _, p2⟩ := Heap.pop_perm (h := h1) (by rintro rfl; simp at l1; omega)
  have l2 : h2.length + 1 = h1.length := by simpa using p2.length_eq
  refine ⟨.internal (word (l.freq + r.freq)) l.idx r.idx,
    Heap.push h2 { freq := l.freq + r.freq, idx := nodeIdx next }, ?_, ?_⟩
  · simp only [mergeTwo, e1, e2]
  · simp only [Heap.length_push]; omega

/-- The loop, given HSIZE rounds, ends with one key and has made HSIZE - 1 internal nodes (40_datapath R140, R142 (a)). -/
theorem mergeAll_ok (rounds : Nat) (h : Heap) (next : Nat) (h0 : 1 ≤ h.length) (hr : h.length ≤ rounds) :
    ∃ nodes h', mergeAll rounds h next = .ok (nodes, h') ∧ h'.length = 1 ∧ nodes.length + 1 = h.length := by
  induction rounds generalizing h next with
  | zero => omega
  | succ rounds ih =>
    simp only [mergeAll]
    by_cases hl : h.length > 1
    · obtain ⟨node, h', e, hlen⟩ := mergeTwo_ok (h := h) hl next
      obtain ⟨nodes, h'', e', hone, hn⟩ := ih h' (next + 1) (by omega) (by omega)
      refine ⟨node :: nodes, h'', ?_, hone, ?_⟩
      · simp only [hl, if_true, e, e']
      · simp only [List.length_cons]; omega
    · refine ⟨[], h, by simp [hl], by omega, by simp; omega⟩

@[simp] theorem length_keysFrom (j : Nat) (ns : List Node) : (keysFrom j ns).length = ns.length := by
  induction ns generalizing j with
  | nil => rfl
  | cons n ns ih => simp [keysFrom, ih]

@[simp] theorem length_leaves (F : Table Word) : (leaves F).length = (present F).length := by simp [leaves]

/-- The tree builder, once its checks have passed, always builds (40_datapath R135). -/
theorem buildFrom_ok {F : Table Word} (h : present F ≠ []) (total : Nat) : ∃ b, buildFrom F total = .ok b := by
  have hpos : 1 ≤ (leaves F).length := by
    rw [length_leaves]; exact List.length_pos_iff.2 h
  unfold buildFrom
  simp only
  by_cases h1 : (leaves F).length = 1
  · exact ⟨_, by rw [if_pos h1]⟩
  · obtain ⟨nodes, q, e, hq, _⟩ := mergeAll_ok (leaves F).length (Heap.build (keysFrom 0 (leaves F)))
      (leaves F).length (by simpa using hpos) (by simp)
    obtain ⟨root, q', e', _⟩ := Heap.pop_perm (h := q) (by rintro rfl; simp at hq)
    rw [if_neg h1]
    simp only [e, e']
    exact ⟨_, rfl⟩

end Sys2Proof.Machine
end

