-- ==== Sys2Proof/Tests/Slice0.lean ====
section
/-! SUPPORT. Tests: decoding of words written out from 30_encoding R112, ill-formed terms, the spec's worked examples
(95_test_vectors, rules R143, R153, R180 to R212, R231, R232), and for each statement with hypotheses a witness that
meets them. -/

namespace Sys2Proof.Tests

open Sys2Proof Sys2Proof.Machine

set_option Elab.async false

/-! ### Helpers -/

/-- The next state of an outcome, if it is one. -/
def nextOf (o : Host.Outcome State Fault Refusal) : Option State :=
  match o with
  | .next s => some s
  | .fault _ => none
  | .refused _ => none

theorem of_nextOf {o : Host.Outcome State Fault Refusal} {t : State} (h : nextOf o = some t) : o = .next t := by
  cases o <;> simp_all [nextOf]

/-- A property of the next state that evaluates to true shows that there is a next state with it. -/
theorem next_of_check {o : Host.Outcome State Fault Refusal} {p : State → Bool}
    (h : (nextOf o).any p = true) : ∃ t, o = .next t ∧ p t = true := by
  cases o with
  | next s => exact ⟨s, rfl, h⟩
  | fault f => simp [nextOf] at h
  | refused r => simp [nextOf] at h

/-- Reset with the given input loaded. -/
def withInput (bs : List Byte) : State :=
  { State.reset with inBuf := Memory.filled 0 bs, inLen := word bs.length }

/-- FREQ with the given entries. -/
def tableOf (l : List (Nat × Nat)) : Table Word :=
  l.foldl (fun F p => Table.put F (BitVec.ofNat 8 p.1) (word p.2)) (Table.const 0#32)

/-- Reset with FREQ given. -/
def withFreq (l : List (Nat × Nat)) : State := { State.reset with freq := tableOf l }

/-- The state after running the commands one after another, if each gives a next state. -/
def after : List Instr → State → Option State
  | [], s => some s
  | i :: is, s => (nextOf (exec i s)).bind (after is)

/-- `n` steps. -/
def stepsOf (n : Nat) (s : State) : Option State := nextOf (Host.Core.run core n s)

def aaabbc : List Byte := [0x61#8, 0x61#8, 0x61#8, 0x62#8, 0x62#8, 0x63#8]
def zzzz : List Byte := [0x7A#8, 0x7A#8, 0x7A#8, 0x7A#8]

/-- The 39-byte blob of 41_encode R184. -/
def blob39 : List Byte :=
  [0x03#8, 0x00#8, 0x00#8, 0x00#8, 0x61#8, 0x03#8, 0x00#8, 0x00#8, 0x00#8, 0x62#8, 0x02#8, 0x00#8, 0x00#8] ++
  [0x00#8, 0x63#8, 0x01#8, 0x00#8, 0x00#8, 0x00#8, 0x48#8, 0x45#8, 0x41#8, 0x44#8, 0x45#8, 0x52#8, 0x5F#8] ++
  [0x45#8, 0x4E#8, 0x44#8, 0x02#8, 0x00#8, 0x00#8, 0x00#8, 0x07#8, 0x00#8, 0x00#8, 0x00#8, 0x1F#8, 0x00#8]

/-- The 28-byte "zzzz" blob of 41_encode R185. -/
def blob28 : List Byte :=
  [0x01#8, 0x00#8, 0x00#8, 0x00#8, 0x7A#8, 0x04#8, 0x00#8, 0x00#8, 0x00#8, 0x48#8, 0x45#8, 0x41#8, 0x44#8] ++
  [0x45#8, 0x52#8, 0x5F#8, 0x45#8, 0x4E#8, 0x44#8, 0x01#8, 0x00#8, 0x00#8, 0x00#8, 0x04#8, 0x00#8, 0x00#8] ++
  [0x00#8, 0x00#8]

/-- The 22-byte empty blob of 41_encode R186. -/
def blob22 : List Byte :=
  [0x00#8, 0x00#8, 0x00#8, 0x00#8, 0x48#8, 0x45#8, 0x41#8, 0x44#8, 0x45#8, 0x52#8, 0x5F#8, 0x45#8, 0x4E#8] ++
  [0x44#8, 0x00#8, 0x00#8, 0x00#8, 0x00#8, 0x00#8, 0x00#8, 0x00#8, 0x00#8]

/-! ### Decoding: the words of 30_encoding R112, bit by bit -/

theorem test_decode_nop : decode 0b00000000000000000000000000000000#32 = .ok .nop := by decide
theorem test_decode_clear : decode 0b00000000000000000000000000000001#32 = .ok .clear := by decide
theorem test_decode_analyze : decode 0b00000000000000000000000000010000#32 = .ok .analyze := by decide
theorem test_decode_build_tree : decode 0b00000000000000000000000000010001#32 = .ok .buildTree := by decide
theorem test_decode_gen_codes : decode 0b00000000000000000000000000010010#32 = .ok .genCodes := by decide
theorem test_decode_pack : decode 0b00000000000000000000000000010011#32 = .ok .pack := by decide
theorem test_decode_serialize : decode 0b00000000000000000000000000010100#32 = .ok .serialize := by decide
theorem test_decode_encode : decode 0b00000000000000000000000000011111#32 = .ok .encode := by decide
theorem test_decode_parse : decode 0b00000000000000000000000000100000#32 = .ok .parse := by decide
theorem test_decode_walk : decode 0b00000000000000000000000000100001#32 = .ok .walk := by decide
theorem test_decode_decode : decode 0b00000000000000000000000000101111#32 = .ok .decode := by decide

/-- 43_control R232: unlisted OPC, and a listed OPC under a non-zero RSVD. -/
theorem test_decode_illegal :
    decode 0x00000015#32 = .error .unknownOpcode ∧ decode 0x00000110#32 = .error .reservedBitsSet ∧
      decode 0xFFFFFFFF#32 = .error .reservedBitsSet := by decide

theorem test_table_word : decodeTableWord 32 0x1F = some .encode ∧ decodeTableWord 32 0x15 = none := by decide

/-- A table word runs as the very next step (10_state R36). -/
theorem test_fetch_word_runs :
    (nextOf (step (State.reset.withFetchWord 32 0x12))).map (fun t => (t.status, t.errInfo)) =
      some (0x606#32, 0x10#32) := by decide +kernel

/-! ### Ill-formed terms (WellFormed) -/

theorem test_wf_rejects_rsvd : wordWf 0x00000110#32 = false ∧ rsvdZero 0x00000110#32 = false := by decide
theorem test_wf_rejects_opc : wordWf 0x00000015#32 = false ∧ opcListed 0x00000015#32 = false := by decide
theorem test_wf_rejects_odd_cap : Params.wf { inCap := 6, outCap := 24, payCap := 4 } = false := by decide
theorem test_wf_rejects_small_in : Params.wf { inCap := 0, outCap := 24, payCap := 4 } = false := by decide
theorem test_wf_rejects_small_out : Params.wf { inCap := 4, outCap := 20, payCap := 4 } = false := by decide
theorem test_wf_rejects_large_pay : Params.wf { inCap := 4, outCap := 24, payCap := 1048580 } = false := by decide
theorem test_wf_accepts_smallest : Params.wf { inCap := 4, outCap := 24, payCap := 4 } = true := by decide
theorem test_wf_accepts_default : Params.default.wf = true := by decide

/-! ### The worked examples -/

/-- 41_encode R180. -/
theorem test_analyze : (nextOf (exec .analyze (withInput aaabbc))).map
    (fun t => (present t.freq, Table.at t.freq 0x61#8, Table.at t.freq 0x63#8, t.symCount, t.total, t.status)) =
    some ([0x61#8, 0x62#8, 0x63#8], 3#32, 1#32, 3#32, 6#32, 2#32) := by decide +kernel

/-- 40_datapath R143: the arena words. -/
theorem test_build_tree : (nextOf (exec .buildTree (withFreq [(0x61, 3), (0x62, 2), (0x63, 1)]))).map
    (fun t => ([0, 1, 2, 3, 4, 5].map fun j => (t.node[nodeIdx j].word0, t.node[nodeIdx j].word1), t.treeRoot,
      t.status)) =
    some ([(0x61#32, 3#32), (0x62#32, 2#32), (0x63#32, 1#32), (0x80010002#32, 3#32), (0x80030000#32, 6#32),
      (0#32, 0#32)], 4, 0x12#32) := by decide +kernel

/-- 95_test_vectors 2.2, "abracadabra": three nodes of frequency 2 tie. -/
theorem test_build_tree_ties :
    (nextOf (exec .buildTree (withFreq [(0x61, 5), (0x62, 2), (0x63, 1), (0x64, 1), (0x72, 2)]))).map
    (fun t => [5, 6, 7, 8].map fun j => t.node[nodeIdx j].word0) =
    some [0x80030002#32, 0x80040001#32, 0x80060005#32, 0x80070000#32] := by decide +kernel

/-- 40_datapath R153. -/
theorem test_gen_codes : (after [.buildTree, .genCodes] (withFreq [(0x61, 3), (0x62, 2), (0x63, 1)])).map
    (fun t => ([0x61#8, 0x62#8, 0x63#8].map fun b => t.codes.code b, [0x62#8, 0x63#8].map fun b => Table.at t.codeBits b,
      [t.maxCodeLen, t.status])) =
    some ([[false], [true, true], [true, false]], [3#256, 1#256], [2#32, 0x32#32]) := by decide +kernel

/-- 41_encode R183. -/
theorem test_pack : (after [.analyze, .buildTree, .genCodes, .pack] (withInput aaabbc)).map
    (fun t => (t.packed, t.pad, t.bitLen, t.status)) = some ([0x1F#8, 0x00#8], 7#32, 9#32, 0x72#32) := by
  decide +kernel

/-- 41_encode R184. -/
theorem test_serialize : (after [.parse, .serialize] (withInput blob39)).map (fun t => (t.output, t.status)) =
    some (blob39, 0x42#32) := by decide +kernel

/-- 95_test_vectors 2.6 and 8.1. -/
theorem test_encode : (nextOf (exec .encode (withInput aaabbc))).map (fun t => (t.output, t.outLen, t.status)) =
    some (blob39, 39#32, 0x72#32) := by decide +kernel

/-- 41_encode R185: one distinct symbol. -/
theorem test_encode_single : (nextOf (exec .encode (withInput zzzz))).map (fun t => (t.output, t.treeRoot)) =
    some (blob28, 0) := by decide +kernel

/-- 42_decode R210. -/
theorem test_parse : (nextOf (exec .parse (withInput blob39))).map
    (fun t => (t.packed, t.pad, t.bitLen, t.symCount, t.total, t.status)) =
    some ([0x1F#8, 0x00#8], 7#32, 9#32, 3#32, 6#32, 0x42#32) := by decide +kernel

/-- 95_test_vectors 1.3: a marker whose first byte is wrong. -/
theorem test_parse_marker : (nextOf (exec .parse (withInput (blob39.set 19 0x68#8)))).map
    (fun t => (t.status, t.errInfo, t.symCount)) = some (0x306#32, 19#32, 0#32) := by decide +kernel

/-- 95_test_vectors 3.3: the source's bit string under this tree gives "aaaccb". -/
theorem test_walk : (after [.parse, .buildTree, .walk] (withInput (blob39.take 37 ++ [0x15#8, 0x80#8]))).map
    (fun t => (t.output, t.status)) =
    some ([0x61#8, 0x61#8, 0x61#8, 0x63#8, 0x63#8, 0x62#8], 0x52#32) := by decide +kernel

/-- 95_test_vectors 3.3: TRUNCATED_STREAM at bit 1 (bits 011 under the "abracadabra" tree). -/
theorem test_walk_truncated : ((nextOf (exec .buildTree
      { withFreq [(0x61, 5), (0x62, 2), (0x63, 1), (0x64, 1), (0x72, 2)] with
        payloadValid := true, payload := Memory.filled 9 [0x60#8], payLen := 1#32, pad := 5#32 })).bind
      fun t => nextOf (exec .walk t)).map (fun t => (t.status, t.errInfo, t.outLen)) =
    some (0x456#32, 1#32, 0#32) := by decide +kernel

/-- 42_decode R212. -/
theorem test_decode_command : (nextOf (exec .decode (withInput blob28))).map (fun t => (t.output, t.status)) =
    some (zzzz, 0x52#32) := by decide +kernel

/-- 41_encode R186, 42_decode R212: the empty input and the empty blob. -/
theorem test_empty : (nextOf (exec .encode (withInput []))).map (fun t => (t.output, t.status)) =
      some (blob22, 0x42#32) ∧
    (nextOf (exec .decode (withInput blob22))).map (fun t => (t.outLen, t.status)) = some (0#32, 0x42#32) := by
  decide +kernel

/-- 43_control R231. -/
theorem test_clear : ((after [.encode, .clear] (withInput zzzz)).map
    fun t => (t.outLen, t.total, Table.at t.freq 0x7A#8, t.status, t.inLen)) =
    some (0#32, 0#32, 0#32, 2#32, 4#32) := by decide +kernel

/-- 43_control R230: NOP after an error reports success. -/
theorem test_nop : (after [.walk, .nop] State.reset).map (fun t => (t.status, t.errInfo)) =
    some (2#32, 0#32) := by decide +kernel

/-- 43_control R232, run from reset through the bus. -/
theorem test_illegal_word : (stepsOf 2 { State.reset with prog := [.wr 0x8#32 0x15#32] }).map
    (fun t => (t.status, t.errInfo)) = some (0x806#32, 0x15#32) := by decide +kernel

/-- 95_test_vectors 8.6 (P6), CORE after the second write: CLEAR is dropped and WDROP set. -/
theorem test_issue_while_busy_dropped :
    (stepsOf 3 { withInput zzzz with
      prog := [.wr 0x8#32 0x1F#32, .wr 0x8#32 0x01#32], sched := [.host, .host, .core] }).map
    (fun t => (t.status, t.outLen)) = some (0x7A#32, 28#32) := by decide +kernel

/-- 95_test_vectors 8.6 (P6), CORE before the second write: CLEAR runs. -/
theorem test_issue_after_completion_runs :
    (stepsOf 4 { withInput zzzz with
      prog := [.wr 0x8#32 0x1F#32, .wr 0x8#32 0x01#32], sched := [.host, .core, .host] }).map
    (fun t => (t.status, t.outLen)) = some (0x2#32, 0#32) := by decide +kernel

/-- 95_test_vectors 5: an unaligned IN_BUF write, and the IN_LEN clamp, through the bus. -/
theorem test_bus_writes :
    (stepsOf 3 { State.reset with
      prog := [.wr 0x100001#32 0x62616161#32, .wr 0x14#32 0xFFFFFFFF#32, .rd 0x100000#32] }).map
    (fun t => (t.rdata, t.inLen, t.inBuf.bytes 4)) =
    some (0x62616161#32, 0x10000#32, [0x61#8, 0x61#8, 0x61#8, 0x62#8]) := by decide +kernel

/-- 95_test_vectors 5: the TREE, CODE_LEN and CODE_BITS windows after ENCODE of "aaabbc". -/
theorem test_windows : ((nextOf (exec .encode (withInput aaabbc))).map fun t =>
    [0x4020#32, 0x4024#32, 0x988#32, 0x1C40#32, 0x4FF8#32, 0x200000#32].map fun a =>
      (t.memRead a).1) =
    some [0x80030000#32, 6#32, 2#32, 3#32, 0#32, 3#32] := by decide +kernel

/-- 70_reset R353: of the 39 blob bytes the word at 36 shows an unspecified one (a draw), the word at 32 none, and the
word beyond the capacity reads 0. -/
theorem test_read_past_length : ((nextOf (exec .encode (withInput aaabbc))).map fun t =>
    ((t.memRead 0x200024#32).2.draws - t.draws, (t.memRead 0x200020#32).2.draws - t.draws,
      t.showsFreeByte (locate 0x300000#32), t.params.outCap)) = some (1, 0, true, 1048576) := by decide +kernel

/-- 95_test_vectors 6: the interrupt is a level, masked and unmasked by IRQ_EN, cleared by a STATUS write. -/
theorem test_interrupt :
    ((nextOf (exec .nop { State.reset with doneIe := true })).map fun t =>
      [t.irq, (t.memWrite 0x10#32 0#32).irq, (t.memWrite 0xC#32 2#32).irq]) = some [true, false, false] := by
  decide +kernel

/-- 30_encoding R117: `load_in`, `cmd` and the polling loop as a program from reset. -/
theorem test_program :
    (stepsOf 6 { State.reset with prog := asmLoadIn zzzz ++ asmCmd .analyze ++ asmAck }).map
      (fun t => (Table.at t.freq 0x7A#8, t.status, t.rdata)) = some (4#32, 0#32, 2#32) := by decide +kernel

/-! ### Witnesses: states and operands that meet the hypotheses of each statement -/

/-- The invariant's fields that do not depend on the data, for reset with an input loaded. -/
theorem inv_of_reset_like {s : State} (hp : s.params.wf = true) (hin : s.inLen.toNat ≤ s.params.inCap)
    (hb : s.inBuf.wf = true ∧ s.inBuf.within s.params.inCap = true)
    (h : { State.reset with
      params := s.params, inBuf := s.inBuf, inLen := s.inLen, phase := s.phase,
      pending := s.pending, freq := s.freq, prog := s.prog, sched := s.sched } = s) : s.Inv := by
  rw [← h]
  exact
    { params := hp, inLen := hin, outLen := Nat.zero_le _, inBuf := hb, payload := ⟨rfl, rfl⟩, outBuf := ⟨rfl, rfl⟩,
      busy := fun _ => ⟨rfl, rfl⟩, noError := fun _ => rfl, noEmptyQueue := fun h => (by cases h),
      symCount := (by decide : State.reset.symCount.toNat ≤ 256),
      total := (by decide : State.reset.total.toNat ≤ Config.int32Max), tree := fun h => (by cases h), noTree := fun _ => rfl,
      codes := fun h => (by cases h), noCodes := fun _ => rfl, pay := fun h => (by cases h),
      noPay := fun _ => ⟨rfl, rfl, rfl⟩ }

theorem witness_inv_reset : State.reset.Inv :=
  inv_of_reset_like (by decide) (by decide) ⟨rfl, rfl⟩ rfl

theorem witness_inv_input : (withInput aaabbc).Inv :=
  inv_of_reset_like (by decide) (by decide +kernel) ⟨by decide +kernel, by decide +kernel⟩ rfl

theorem witness_params : Params.wf { inCap := 4, outCap := 24, payCap := 4 } = true := by decide

/-- PendingCommandCompletes: a pending ENCODE, a HOST turn still fixed before CORE's. -/
theorem witness_pending : State.Inv { withInput aaabbc with phase := .busy, pending := 0x1F#32, sched := [.host] } :=
  inv_of_reset_like (by decide) (by decide +kernel) ⟨by decide +kernel, by decide +kernel⟩ rfl

/-- ResetGivesStatedValues: a RESET turn, while BUSY. -/
theorem witness_reset_turn :
    ∃ (s : State) (ts : List Turn), s.sched = .reset :: ts ∧ s.phase = .busy :=
  ⟨{ State.reset with phase := .busy, sched := [.reset, .host] }, [.host], rfl, rfl⟩

/-- CmdWriteIssuesOrDrops, StatusWriteAcknowledges, BusyWritesAreDropped, FreqWriteInvalidates, OtherWrites: offsets of
each kind, the last word of a window among them. -/
theorem witness_locations :
    locate 0x8#32 = .reg .cmd ∧ locate 0xF#32 = .reg .status ∧ locate 0x10#32 = .reg .irqEn ∧
      locate 0x14#32 = .reg .inLen ∧ locate 0x7FF#32 = .freq 0xFF#8 ∧ locate 0x400#32 = .freq 0x00#8 ∧
      locate 0x48#32 = .reserved ∧ locate 0xFC#32 = .reserved ∧ locate 0x100#32 = .unmapped ∧
      locate 0x200004#32 = .outBuf 4 ∧ locate 0x100000#32 = .inBuf 0 := by decide +kernel

/-- StepRunsTheDecodedCommand: both kinds of schedule, both kinds of word. -/
theorem witness_step_runs :
    ∃ s s' : State, s.phase = .busy ∧ s.sched = [] ∧ decode s.pending = .ok .encode ∧
      s'.phase = .busy ∧ s'.sched = [.core, .host] ∧ decode s'.pending = .error .unknownOpcode :=
  ⟨{ State.reset with phase := .busy, pending := 0x1F#32 },
   { State.reset with phase := .busy, pending := 0x15#32, sched := [.core, .host] },
   rfl, rfl, by decide, rfl, rfl, by decide⟩

/-- CommandsLeaveHostSideAlone, EachCommandsErrors, InterruptPendingUntilAcknowledged: a command gives a next state. -/
theorem witness_exec : ∃ t, exec .encode (withInput aaabbc) = .next t ∧ decide (t.err = .none) = true :=
  next_of_check (by decide +kernel)

/-- HostCannotDisturbPendingCommand: a BUSY state with a write to drop. -/
theorem witness_busy : ∃ s : State, s.phase = .busy ∧ s.prog = [.wr 0x14#32 3#32] :=
  ⟨{ State.reset with phase := .busy, prog := [.wr 0x14#32 3#32] }, rfl, rfl⟩

/-- OnlyCmdWriteStartsWork, ErrorReportStaysUntilIssue: a step that starts a command. -/
theorem witness_start : ∃ t, step { State.reset with prog := [.wr 0x8#32 0x10#32] } = .next t ∧
    decide (t.phase = .busy) = true := next_of_check (by decide +kernel)

/-- InterruptPendingUntilAcknowledged: a step that clears DONE. -/
theorem witness_acknowledge : ∃ t, step { State.reset with done := true, prog := [.wr 0xC#32 2#32] } = .next t ∧
    (!t.done) = true := next_of_check (by decide +kernel)

theorem witness_run_over : State.reset.RunOver ∧ State.reset.sched = [] := ⟨⟨rfl, rfl⟩, rfl⟩

/-- ErrorReportStaysUntilIssue's first case: a HOST turn that is no issue. -/
theorem witness_idle_step : ∃ t, step { State.reset with
    err := .sequence, errInfo := 0x10#32, prog := [.rd 0xC#32] } = .next t ∧ decide (t.err = .sequence) = true := next_of_check (by decide +kernel)

/-- ValidBitsFollowTheTable: a next state of each command, with and without an error. -/
theorem witness_valid_bits :
    ([(Instr.clear, State.reset), (.analyze, withInput aaabbc), (.buildTree, withFreq [(1, 2)]),
      (.buildTree, State.reset), (.genCodes, State.reset), (.pack, State.reset),
      (.pack, { State.reset with codesValid := true }),
      (.pack, { withInput zzzz with codesValid := true }), (.parse, withInput blob39), (.parse, State.reset),
      (.serialize, State.reset), (.walk, State.reset), (.nop, State.reset), (.encode, withInput []),
      (.decode, withInput blob39), (.decode, withInput blob22), (.decode, withInput (blob39.set 19 0x68#8)),
      (.decode, withInput (blob39.take 29 ++ [1#8, 0#8, 0#8, 0#8, 7#8, 0#8, 0#8, 0#8, 0x80#8])),
      (.decode, { withInput blob39 with params := { inCap := 65536, outCap := 4, payCap := 4 } })].map
      fun p => (nextOf (exec p.1 p.2)).map fun t => t.err) =
    [some .none, some .none, some .none, some .emptyInput, some .sequence, some .sequence, some .none,
      some .unknownSymbol, some .none, some .malformedHeader, some .sequence, some .sequence, some .none, some .none,
      some .none, some .none, some .malformedHeader, some .truncatedStream, some .capacity] := by
  decide +kernel

/-- IdleReadsFollowTheMap: an offset for each clause, at the ends of each window, with ignored bits set. -/
theorem witness_read_offsets :
    (Reg.offset .payCapReg).toNat + 3 = 0x47 ∧ (0x48 ≤ (0xFC#32).toNat ∧ (0xFC#32).toNat < 0x100) ∧
      (0x7FD#32).toNat = 0x400 + 4 * (0xFF#8).toNat + 1 ∧ (0xBFC#32).toNat = 0x800 + 4 * (0xFF#8).toNat + 0 ∧
      (0x2FFC#32).toNat = 0x1000 + 32 * (0xFF#8).toNat + 4 * 7 + 0 ∧ (0x4FF0#32).toNat = 0x4000 + 8 * 510 + 0 ∧
      (0x4FF7#32).toNat = 0x4000 + 8 * 510 + 4 + 3 ∧ (0x1FFFFC#32).toNat = 0x100000 + 4 * 262143 + 0 ∧
      (0x2FFFFC#32).toNat = 0x200000 + 4 * 262143 + 0 ∧ (0x3FFFFC#32).toNat = 0x300000 + 4 * 262143 + 0 ∧
      (0x400000 ≤ (0xFFFFFFFF#32).toNat) ∧ (0x01B#32).toNat = 0x018 + 3 := by decide

/-- IdleReadsFollowTheMap: a length with a byte before it and a byte at it in one word, inside the capacity. -/
theorem witness_lengths :
    ({ State.reset with outLen := 6#32, payLen := 1#32 } : State).phase = .idle ∧ 4 * 1 + 1 < (6#32).toNat ∧
      ¬ 4 * 1 + 2 < (6#32).toNat ∧ 4 * 1 < State.reset.params.outCap ∧
      State.reset.params.payCap ≤ 4 * 262144 := by decide

/-- BusyReadsHideResults: the first and last offset of each range, with ignored bits set. -/
theorem witness_busy_offsets : ({ State.reset with phase := .busy } : State).phase = .busy ∧
    [0x018#32, 0x03B#32, 0x400#32, 0xBFF#32, 0x1000#32, 0x2FFF#32, 0x4000#32, 0x4FFF#32, 0x200000#32, 0x3FFFFF#32].map
      (fun off => (locate off).inResultSet) = List.replicate 10 true ∧
    [0x000#32, 0x00C#32, 0x017#32, 0x03C#32, 0x3FF#32, 0xC00#32, 0xFFF#32, 0x3000#32, 0x3FFF#32, 0x5000#32, 0x1FFFFF#32,
      0x400000#32].map (fun off => (locate off).inResultSet) = List.replicate 12 false := by decide +kernel

/-- TreeWindowShowsNodes: a leaf in the first entry and an internal node in the last (10_state R50). -/
theorem witness_tree_window :
    (0x4000#32).toNat = 0x4000 + 8 * (0 : NodeIdx).val ∧ (0x4FF4#32).toNat = 0x4000 + 8 * (510 : NodeIdx).val + 4 ∧
      Node.word0 (.leaf 0x61#8 3#32) = 0x00000061#32 ∧
      Node.word0 (.internal 3#32 (508 : NodeIdx) (509 : NodeIdx)) = 0x81FD01FC#32 := by decide

/-- InBufWriteIsLittleEndian: the last word inside the default capacity and the first beyond it. -/
theorem witness_in_buf_words :
    (0x10FFFC#32).toNat = 0x100000 + 4 * 16383 + 0 ∧ 4 * 16383 < State.reset.params.inCap ∧
      (0x110002#32).toNat = 0x100000 + 4 * 16384 + 2 ∧ State.reset.params.inCap ≤ 4 * 16384 ∧
      State.reset.phase = .idle := by decide

/-- HostOperationsInProgramOrder: a program of each kind of operation. -/
theorem witness_programs :
    asmCmd .nop = [.wr 0x8#32 0#32, .wait] ∧ asmCheck .status = [.rd 0xC#32] ∧ asmAck = [.wr 0xC#32 0xA#32] := by
  decide

theorem witness_count : aaabbc.length ≤ 1048576 := by decide

/-- HeapPopsTheLeastKey: a heap order that holds, of three keys. -/
theorem witness_heap : IsHeap [{ freq := 1, idx := 2 }, { freq := 2, idx := 1 }, { freq := 3, idx := 0 }] := by
  intro i h0 hi
  have h3 : i < 3 := hi
  interval_cases i <;> decide +kernel

theorem freqLegal_of_check {F : Table Word}
    (h : (allSymbols.all fun b => decide (freqOf F b < 2 ^ 31)) = true ∧ freqSum F allSymbols ≤ Config.int32Max) :
    FreqLegal F :=
  ⟨fun b => by simpa using (List.all_eq_true.1 h.1) b (mem_allSymbols b), h.2⟩

/-- BuildTreeOutcomes, BuildTreeBuildsOrReports: a legal table with a symbol, at the largest legal total. -/
theorem witness_legal : FreqLegal (tableOf [(0, 0x7FFFFFFE), (5, 1)]) ∧ present (tableOf [(0, 0x7FFFFFFE), (5, 1)]) ≠ [] :=
  ⟨freqLegal_of_check (by decide +kernel), by decide +kernel⟩

theorem witness_empty_table : present State.reset.freq = [] := by decide +kernel

/-- BuildTreeOutcomes, BuildTreeBuildsOrReports: 95_test_vectors 2.2's two illegal tables. -/
theorem witness_illegal :
    (present (tableOf [(5, 0x80000000)]) = [] ++ 5#8 :: [] ∧ 2 ^ 31 ≤ freqOf (tableOf [(5, 0x80000000)]) 5#8) ∧
    (present (tableOf [(0, 0x7FFFFFFF), (1, 1)]) = [0#8] ++ 1#8 :: [] ∧
      (∀ x ∈ [0#8], freqOf (tableOf [(0, 0x7FFFFFFF), (1, 1)]) x < 2 ^ 31) ∧
      freqSum (tableOf [(0, 0x7FFFFFFF), (1, 1)]) [0#8] ≤ Config.int32Max ∧
      Config.int32Max < freqSum (tableOf [(0, 0x7FFFFFFF), (1, 1)]) [0#8] +
        freqOf (tableOf [(0, 0x7FFFFFFF), (1, 1)]) 1#8) := by decide +kernel

/-- The tree, codes and bits of an input, if every step succeeds. -/
def planOf (input : List Byte) : Option (Built × Codes × Bits) :=
  match buildTree (countSymbols input) with
  | .error _ => none
  | .ok b =>
    match genCodes b.arena b.root with
    | .error _ => none
    | .ok c =>
      match encodeBits c 0 input with
      | .error _ => none
      | .ok bits => some (b, c, bits)

theorem of_planOf {input : List Byte} {p : Built × Codes × Bits → Bool} (h : (planOf input).any p = true) :
    ∃ b c bits, buildTree (countSymbols input) = .ok b ∧ genCodes b.arena b.root = .ok c ∧
      encodeBits c 0 input = .ok bits ∧ p (b, c, bits) = true := by
  unfold planOf at h
  split at h
  · simp at h
  · rename_i b hb
    split at h
    · simp at h
    · rename_i c hc
      split at h
      · simp at h
      · rename_i bits hbits; exact ⟨b, c, bits, hb, hc, hbits, h⟩

/-- GeneratedCodesAreACode: the table with one symbol (`witness_plan` is one with three). -/
theorem witness_one_symbol : present (tableOf [(0x7A, 4)]) = [0x7A#8] ∧
    (buildTree (tableOf [(0x7A, 4)])).toOption.isSome = true := by decide +kernel

/-- BuiltTreeHasItsShape, GeneratedCodesAreACode, WalkInvertsEncode, WalkReportsErrors, EncodeCompletes: "aaabbc", whose
symbol b has the code "11", with the capacities of the default parameters. -/
theorem witness_plan : ∃ b c bits, buildTree (countSymbols aaabbc) = .ok b ∧ genCodes b.arena b.root = .ok c ∧
    encodeBits c 0 aaabbc = .ok bits ∧
    (decide (packedLen bits ≤ 1048576) &&
      decide ((serialize (countSymbols aaabbc) (packBits bits) (padCount bits)).length ≤ 1048576) &&
      (c.code 0x62#8 == [true, true]) && decide (0x62#8 ∈ present (countSymbols aaabbc))) = true :=
  of_planOf (p := fun p => decide (packedLen p.2.2 ≤ 1048576) &&
      decide ((serialize (countSymbols aaabbc) (packBits p.2.2) (padCount p.2.2)).length ≤ 1048576) &&
      (p.2.1.code 0x62#8 == [true, true]) && decide (0x62#8 ∈ present (countSymbols aaabbc))) (by decide +kernel)

/-- EncodeCompletes: a blob that does not fit (95_test_vectors 2.6: OUT_CAP = 24 and "ab") and a payload that does not
(PAY_CAP = 4 and 33 one-bit codes, 41_encode R183, R185). -/
theorem witness_encode_capacity :
    (nextOf (exec .encode { withInput [0x61#8, 0x62#8] with
      params := { inCap := 65536, outCap := 24, payCap := 1048576 } })).map
      (fun t => (t.status, t.errInfo, t.outLen, t.payLen)) = some (0x776#32, 33#32, 0#32, 1#32) ∧
    (nextOf (exec .encode { withInput (List.replicate 33 0x7A#8) with
      params := { inCap := 65536, outCap := 1048576, payCap := 4 } })).map
      (fun t => (t.status, t.errInfo, t.payLen)) = some (0x736#32, 5#32, 0#32) := by decide +kernel

/-- EncodeCompletes, EncodeOfEmptyInput: their conditions on the state. -/
theorem witness_encode_state : (withInput aaabbc).params.wf = true ∧ (withInput aaabbc).inLen ≠ 0#32 ∧
    (withInput aaabbc).input = aaabbc ∧ State.reset.inLen = 0#32 := by decide +kernel

/-- SingleLeafCode, SingleLeafWalk: a tree of one leaf; output that fits and output that does not. -/
theorem witness_single_leaf : (arenaOf [.leaf 0x7A#8 4#32])[nodeIdx 0] = .leaf 0x7A#8 4#32 ∧
    [true, false].length ≤ 2 ∧ 1 < [true, false].length := by decide +kernel

/-- EncodeBitsConcatenates: an input with codes, and one whose second byte has none (95_test_vectors 2.4, "ac"). -/
theorem witness_codes :
    (∀ x ∈ [0x61#8], Table.at (Codes.empty.record 0x61#8 [false]).len x ≠ 0#8) ∧
    ([0x61#8, 0x63#8] = [0x61#8] ++ 0x63#8 :: [] ∧
      Table.at (Codes.empty.record 0x61#8 [false]).len 0x63#8 = 0#8) := by decide +kernel

/-- ParseInvertsSerialize, ParseLoadsOrReports, ParseRejectsMalformedBlobs, DecodeDecodesOrReports: a blob that parses,
one that does not, and counts out of range. -/
theorem witness_parse :
    (parseBlob blob39).toOption.map (fun r => (r.count, r.payload, r.pad)) = some (3, [0x1F#8, 0x00#8], 7) ∧
    (parseBlob blob22).toOption.map (fun r => r.count) = some 0 ∧
    (match parseBlob (blob39.set 19 0x68#8) with | .error o => o | .ok _ => 0) = 19 ∧
    sint32 (rdle32 0xFF#8 0xFF#8 0xFF#8 0xFF#8) < 0 ∧ 256 < sint32 (rdle32 0x01#8 0x01#8 0x00#8 0x00#8) ∧
    (withInput blob39).input = blob39 ∧ (withInput blob39).params.wf = true := by decide +kernel

/-- PackPutsBitsMsbFirst, PackUnpackInverse, BufferWordsAreLittleEndian: a last byte with padding, and the last index
inside a capacity and the first beyond it. -/
theorem witness_pack_unpack :
    ([0x1F#8, 0x00#8] ≠ [] ∧ 7 ≤ 7 ∧ 1 + 1 = [0x1F#8, 0x00#8].length ∧ 6 < 7) ∧
      1 < ([true, false, true, false, true, false, true, false, true].length + 7) / 8 ∧ 3 < 4 ∧ 4 ≤ 4 := by decide

/-- ParseInvertsSerialize, ParseRejectsMalformedBlobs: a legal table with a symbol, a payload and padding; a tail whose
first ten bytes are not the marker; a payload of another length than the packed one. -/
theorem witness_serialize_legal :
    FreqLegal (tableOf [(0x7A, 4)]) ∧ zzzz.length ≤ Config.int32Max ∧ zzzz ≠ [] ∧
      present (tableOf [(0x7A, 4)]) ≠ [] ∧ zzzz.take 10 ≠ Config.marker ∧ zzzz.length ≠ 5 ∧ (5 : Nat) < 2 ^ 31 :=
  ⟨freqLegal_of_check (by decide +kernel), by decide, by decide, by decide +kernel, by decide, by decide, by decide⟩

/-- ParseRejectsMalformedBlobs: after one good entry of a count of two, a symbol that is not above it, one that is, a
frequency that is not positive and one that makes the total too large; a packed length and a padding out of range. -/
theorem witness_parse_checks :
    FreqLegal (tableOf [(0x7A, 4)]) ∧ (present (tableOf [(0x7A, 4)])).length < 2 ∧
      (∃ y ∈ present (tableOf [(0x7A, 4)]), (0x7A#8).toNat ≤ y.toNat) ∧
      (∀ y ∈ present (tableOf [(0x7A, 4)]), y.toNat < (0x7B#8).toNat) ∧
      Config.int32Max < freqSum (tableOf [(0x7A, 4)]) allSymbols + (0x7F#8 ++ 0xFF#8 ++ 0xFF#8 ++ 0xFF#8).toNat ∧
      (0x80#8 ++ 0#8 ++ 0#8 ++ 0#8).getLsbD 31 = true ∧ (0#8 ++ 0#8 ++ 0#8 ++ 0#8) = 0#32 ∧
      256 < (0#8 ++ 0#8 ++ 1#8 ++ 1#8).toNat ∧ 7 < (0#8 ++ 0#8 ++ 0#8 ++ 8#8).toNat ∧
      (5#32).getLsbD 31 = false ∧ (0#8 ++ 0#8 ++ 0#8 ++ 1#8) ≠ 0#32 ∧ FreqLegal (tableOf []) ∧ present (tableOf []) = [] :=
  ⟨freqLegal_of_check (by decide +kernel), by decide +kernel, ⟨0x7A#8, by decide +kernel, by decide⟩,
    by decide +kernel, by decide +kernel, by decide, by decide, by decide, by decide, by decide, by decide,
    freqLegal_of_check (by decide +kernel), by decide +kernel⟩

/-- WalkReportsErrors: a proper, non-empty beginning of the code "11" (`witness_plan`), and a capacity below the
input's length. -/
theorem witness_unfinished_code : [true] <+: [true, true] ∧ [true] ≠ [] ∧ [true] ≠ [true, true] ∧
    5 < aaabbc.length := by decide

/-- PARSE and DECODE with a payload that does not fit: the payload of the 39-byte blob and PAY_CAP below its length
(the statements put no lower bound on PAY_CAP; 95_test_vectors 3.2 uses PAY_CAP = 4 and 256 bytes). -/
theorem witness_parse_capacity :
    ((parseBlob (blob28.take 19 ++ [5#8, 0#8, 0#8, 0#8, 4#8, 0#8, 0#8, 0#8] ++ zzzz ++ [0#8])).toOption.map
      fun r => decide (4 < r.payload.length)) = some true ∧
    Params.wf { inCap := 65536, outCap := 24, payCap := 4 } = true := by decide +kernel

/-- A walk that fails, under DECODE: one payload bit of the "aaabbc" tree's two-bit code. -/
theorem witness_walk_error :
    ((parseBlob (blob39.take 29 ++ [1#8, 0#8, 0#8, 0#8, 7#8, 0#8, 0#8, 0#8, 0x80#8])).toOption.map fun r =>
      (match buildTree r.freq with
        | .error _ => none
        | .ok b =>
          match walkBits b.arena b.root (unpackBits r.payload r.pad) 1048576 with
          | .error e => some e
          | .ok _ => none)) = some (some (.truncatedStream, 0#32)) := by decide +kernel

/-- GenCodesCompletes: a state that meets the invariant and holds a tree. -/
def withTree : State :=
  { State.reset with
    freq := tableOf [(0x7A, 4)], node := arenaOf [.leaf 0x7A#8 4#32], symCount := 1#32, total := 4#32
    treeValid := true }

theorem withTree_built : buildTree (tableOf [(0x7A, 4)]) =
    .ok { arena := arenaOf [.leaf 0x7A#8 4#32], root := 0, count := 1, total := 4 } := by decide +kernel

theorem witness_tree : withTree.Inv ∧ withTree.treeValid = true := by
  refine ⟨?_, rfl⟩
  exact
    { params := (by decide), inLen := Nat.zero_le _, outLen := Nat.zero_le _, inBuf := ⟨rfl, rfl⟩,
      payload := ⟨rfl, rfl⟩, outBuf := ⟨rfl, rfl⟩, busy := fun h => (by cases h),
      noError := fun _ => rfl, noEmptyQueue := fun h => (by cases h),
      symCount := by decide, total := by decide,
      tree := fun _ => ⟨1, 4, withTree_built⟩,
      noTree := fun h => (by cases h),
      codes := fun h => (by cases h),
      noCodes := fun _ => rfl,
      pay := fun h => (by cases h),
      noPay := fun _ => ⟨rfl, rfl, rfl⟩ }

/-- PackPacksOrReports: valid codes, an input that fits, one with an unknown symbol, one that does not fit. -/
def withCodes (input : List Byte) (payCap : Nat) : State :=
  { withInput input with
    params := { inCap := 65536, outCap := 1048576, payCap := payCap }
    codeLen := (Codes.empty.record 0x7A#8 [false]).len, codeBits := (Codes.empty.record 0x7A#8 [false]).bits
    codesValid := true }

theorem witness_pack :
    (∀ x ∈ (withCodes zzzz 4).input, Table.at (withCodes zzzz 4).codeLen x ≠ 0#8) ∧
    packedLen ((withCodes zzzz 4).input.flatMap (withCodes zzzz 4).codes.code) ≤ (withCodes zzzz 4).params.payCap ∧
    ((withCodes [0x7A#8, 0x63#8] 4).input = [0x7A#8] ++ 0x63#8 :: [] ∧
      Table.at (withCodes [0x7A#8, 0x63#8] 4).codeLen 0x63#8 = 0#8) ∧
    (withCodes (List.replicate 33 0x7A#8) 4).params.payCap <
      packedLen ((withCodes (List.replicate 33 0x7A#8) 4).input.flatMap
        (withCodes (List.replicate 33 0x7A#8) 4).codes.code) := by decide +kernel

/-- SerializeWritesBlobOrReports: a blob that fits and one that does not (OUT_CAP = 24, 28 bytes needed). -/
def withPayload (outCap : Nat) : State :=
  { State.reset with
    params := { inCap := 65536, outCap := outCap, payCap := 1048576 }
    freq := tableOf [(0x7A, 4)], payload := Memory.filled 9 [0#8], payLen := 1#32, pad := 4#32, bitLen := 4#32
    payloadValid := true }

theorem witness_serialize :
    (serialize (withPayload 28).freq (withPayload 28).packed (withPayload 28).pad.toNat).length ≤
      (withPayload 28).params.outCap ∧
    (withPayload 24).params.outCap <
      (serialize (withPayload 24).freq (withPayload 24).packed (withPayload 24).pad.toNat).length := by decide +kernel

/-- WalkDecodesOrReports: valid tree and payload; a walk that succeeds and one that does not fit. -/
def withWalk (outCap : Nat) : State :=
  { withPayload outCap with node := arenaOf [.leaf 0x7A#8 4#32], treeValid := true }

theorem witness_walk :
    (withWalk 4).treeValid = true ∧ (withWalk 4).payloadValid = true ∧
    (walkBits (withWalk 4).node (withWalk 4).treeRoot (unpackBits (withWalk 4).packed (withWalk 4).pad.toNat)
      (withWalk 4).params.outCap) = .ok zzzz ∧
    (walkBits (withWalk 3).node (withWalk 3).treeRoot (unpackBits (withWalk 3).packed (withWalk 3).pad.toNat)
      (withWalk 3).params.outCap) = .error (.capacity, 3#32) := by decide +kernel

/-- EncodeDependsOnlyOnInput: states of different well-formed capacities with the same input. -/
theorem witness_same_input_other_capacity :
    let u : State := { withInput zzzz with params := { inCap := 4, outCap := 28, payCap := 4 } }
    u.params.wf = true ∧ u.inLen = (withInput zzzz).inLen ∧ u.input = (withInput zzzz).input ∧
      (nextOf (exec .encode u)).map (fun t => t.err) = some .none ∧ u.params ≠ (withInput zzzz).params := by
  decide +kernel

/-- EncodeDependsOnlyOnInput: two different states with the same input (`witness_exec` and `test_encode_single` show that
ENCODE gives a next state). -/
theorem witness_same_input :
    ({ withInput zzzz with total := 7#32 } : State).input = (withInput zzzz).input ∧
      ({ withInput zzzz with total := 7#32 } : State) ≠ withInput zzzz := by
  refine ⟨rfl, fun h => ?_⟩
  have := congrArg State.total h
  exact absurd this (by decide)

/-- DecodeInvertsEncode: "aaabbc" encoded, and its blob as the next input. -/
theorem witness_round_trip : ∃ t, exec .encode (withInput aaabbc) = .next t ∧
    (decide (t.err = .none) && decide ((withInput blob39).input = t.output) &&
      decide (t.payLen.toNat ≤ (withInput blob39).params.payCap) &&
      decide ((withInput aaabbc).inLen.toNat ≤ (withInput blob39).params.outCap)) = true :=
  next_of_check (by decide +kernel)

end Sys2Proof.Tests
end

section
/-! PROOFS. The two registers whose HOST writes the sequencer itself answers: a write to CMD is a command issue
(10_state R35), a write to STATUS an acknowledgement (R38). -/

namespace Sys2Proof.Machine

theorem State.memWrite_cmd {off : Word} (h : locate off = .reg .cmd) (s : State) (c : Word) :
    s.memWrite off c = s.issue c := by
  simp only [State.memWrite, h]

theorem State.memWrite_status {off : Word} (h : locate off = .reg .status) (s : State) (v : Word) :
    s.memWrite off v = s.acknowledge v := by
  simp only [State.memWrite, h]

theorem State.acknowledge_eq (s : State) (v : Word) :
    s.acknowledge v =
      { s with
        done := if v.getLsbD 1 then false else s.done
        wdrop := if v.getLsbD 3 then false else s.wdrop } := by
  simp only [State.acknowledge, Bool.if_false_left, Bool.decide_eq_true, Bool.and_comm]

/-- Settles O2: a write to CMD is `issue`, whose two cases are PHASE's. -/
theorem cmdWriteIssuesOrDrops : Obligations.CmdWriteIssuesOrDrops := by
  unfold Obligations.CmdWriteIssuesOrDrops
  intro s off c hcmd
  rw [State.memWrite_cmd hcmd]
  exact ⟨fun hbusy => State.issue_busy hbusy c, fun hidle => State.issue_idle hidle c⟩

/-- Settles O12: in either PHASE a write to STATUS is `acknowledge`, which clears a bit where `v` has a 1. -/
theorem statusWriteAcknowledges : Obligations.StatusWriteAcknowledges := by
  unfold Obligations.StatusWriteAcknowledges
  intro s off v hstatus
  rw [State.memWrite_status hstatus, State.acknowledge_eq]

end Sys2Proof.Machine
end

section
/-! PROOFS. The address map looks an offset up by its word only (20_memory R81), so a bus access reaches the same
location from every offset of a word. -/

namespace Sys2Proof.Machine

theorem toNat_clearLowBits (off : Word) : (off &&& 0xFFFFFFFC#32).toNat = off.toNat / 4 * 4 := by
  have hmask : off &&& 0xFFFFFFFC#32 = off >>> 2 <<< 2 := (BitVec.shiftLeft_ushiftRight (x := off) (n := 2)).symm
  rw [hmask, BitVec.toNat_shiftLeft, BitVec.toNat_ushiftRight, Nat.shiftRight_eq_div_pow, Nat.shiftLeft_eq]
  exact Nat.mod_eq_of_lt (Nat.lt_of_le_of_lt (Nat.div_mul_le_self _ _) off.isLt)

theorem locate_clearLowBits (off : Word) : locate (off &&& 0xFFFFFFFC#32) = locate off := by
  simp only [locate, toNat_clearLowBits, Nat.mul_div_cancel _ (by decide : 0 < 4)]

theorem State.memRead_congr {off off' : Word} (h : locate off = locate off') (s : State) :
    s.memRead off = s.memRead off' := by
  simp only [State.memRead, h]

theorem State.memWrite_congr {off off' : Word} (h : locate off = locate off') (s : State) (v : Word) :
    s.memWrite off v = s.memWrite off' v := by
  simp only [State.memWrite, h]

/-- Settles O19: the two offsets have one location, and an access depends on its offset only through that. -/
theorem offsetLowBitsIgnored : Obligations.OffsetLowBitsIgnored := by
  unfold Obligations.OffsetLowBitsIgnored
  intro s off v
  have hloc : locate off = locate (off &&& 0xFFFFFFFC#32) := (locate_clearLowBits off).symm
  exact ⟨State.memRead_congr hloc s, State.memWrite_congr hloc s v⟩

end Sys2Proof.Machine
end

section
/-! PROOFS. The code table as strings: the code `record` stores is the code read back (10_state R51, 40_datapath R150),
and a tree of one leaf stores "0" (R151). -/

namespace Sys2Proof.Machine

theorem testBit_bitsNat (p : Bits) (j : Nat) : (bitsNat p).testBit j = p.getD j false := by
  induction p generalizing j with
  | nil => simp [bitsNat]
  | cons b p ih =>
    have hbit : bitsNat (b :: p) = Nat.bit b (bitsNat p) := by rw [bitsNat, Nat.bit_val, Nat.add_comm]
    rw [hbit]
    cases j with
    | zero => simp
    | succ j => simp [Nat.testBit_bit_succ, ih]

@[simp] theorem Codes.length_code (c : Codes) (s : Byte) : (c.code s).length = (Table.at c.len s).toNat := by
  simp [Codes.code]

theorem Codes.code_eq_nil {c : Codes} {s : Byte} : c.code s = [] ↔ Table.at c.len s = 0#8 := by
  rw [← List.length_eq_zero_iff, Codes.length_code, ← BitVec.toNat_inj, BitVec.toNat_zero]

@[simp] theorem Codes.at_len_empty (s : Byte) : Table.at Codes.empty.len s = 0#8 := Table.at_const ..

@[simp] theorem Codes.at_bits_empty (s : Byte) : Table.at Codes.empty.bits s = 0#256 := Table.at_const ..

@[simp] theorem Codes.at_len_record_same (c : Codes) (s : Byte) (p : Bits) :
    Table.at (c.record s p).len s = BitVec.ofNat 8 p.length := Table.at_put_same ..

@[simp] theorem Codes.at_bits_record_same (c : Codes) (s : Byte) (p : Bits) :
    Table.at (c.record s p).bits s = BitVec.ofNat 256 (bitsNat p) := Table.at_put_same ..

theorem Codes.at_len_record_other (c : Codes) {s x : Byte} (p : Bits) (h : x ≠ s) :
    Table.at (c.record s p).len x = Table.at c.len x := Table.at_put_other _ _ h

theorem Codes.at_bits_record_other (c : Codes) {s x : Byte} (p : Bits) (h : x ≠ s) :
    Table.at (c.record s p).bits x = Table.at c.bits x := Table.at_put_other _ _ h

/-- A code of at most 255 bits fits the table, so recording it loses nothing. -/
theorem Codes.code_record_same (c : Codes) (s : Byte) {p : Bits} (h : p.length < 256) : (c.record s p).code s = p := by
  have hlen : (BitVec.ofNat 8 p.length).toNat = p.length := Nat.mod_eq_of_lt h
  apply List.ext_getElem
  · simp [hlen]
  · intro j hj hj'
    have hj256 : j < 256 := Nat.lt_trans hj' h
    simp [Codes.code, BitVec.getLsbD_ofNat, testBit_bitsNat, hj256, hj']

theorem Codes.code_record_other (c : Codes) {s x : Byte} (p : Bits) (h : x ≠ s) : (c.record s p).code x = c.code x := by
  simp only [Codes.code, Codes.at_len_record_other c p h, Codes.at_bits_record_other c p h]

theorem genCodes_leaf {A : Arena} {root : NodeIdx} {s : Byte} {f : Word} (h : A[root] = .leaf s f) :
    genCodes A root = .ok (Codes.empty.record s [false]) := by
  simp only [genCodes, h]

/-- Settles O33: GenCodes of a leaf records "0" for its symbol in the empty table. -/
theorem singleLeafCode : Obligations.SingleLeafCode := by
  unfold Obligations.SingleLeafCode
  intro A root s f hroot
  refine ⟨_, genCodes_leaf hroot, by simp, by simp [bitsNat], Codes.code_record_same _ _ (by decide), ?_⟩
  intro x hx
  exact ⟨by simp [Codes.at_len_record_other _ _ hx], by simp [Codes.at_bits_record_other _ _ hx]⟩

end Sys2Proof.Machine
end

section
/-! PROOFS. The symbol mapping: EncodeBits succeeds exactly on the inputs whose symbols all have codes, and reports the
first that has none (40_datapath R155). -/

namespace Sys2Proof.Machine

theorem encodeBits_ok_iff {c : Codes} {i : Nat} {input : List Byte} {bits : Bits} :
    encodeBits c i input = .ok bits ↔ (∀ x ∈ input, Table.at c.len x ≠ 0#8) ∧ bits = input.flatMap c.code := by
  induction input generalizing i bits with
  | nil => simp [encodeBits, eq_comm]
  | cons x xs ih =>
    rw [List.forall_mem_cons, List.flatMap_cons]
    by_cases hx : Table.at c.len x = 0#8
    · simp [encodeBits, hx]
    · simp only [encodeBits, if_neg hx]
      cases hxs : encodeBits c (i + 1) xs with
      | error k =>
        have hnot : ¬ ∀ y ∈ xs, Table.at c.len y ≠ 0#8 := fun hall => by
          rw [ih.2 ⟨hall, rfl⟩] at hxs; cases hxs
        simp [hnot]
      | ok tail =>
        obtain ⟨hall, rfl⟩ := ih.1 hxs
        simp only [Except.ok.injEq, and_iff_right (And.intro hx hall), eq_comm]

theorem encodeBits_first_uncoded {c : Codes} {pre : List Byte} {x : Byte} (i : Nat) (post : List Byte)
    (hpre : ∀ y ∈ pre, Table.at c.len y ≠ 0#8) (hx : Table.at c.len x = 0#8) :
    encodeBits c i (pre ++ x :: post) = .error (i + pre.length) := by
  induction pre generalizing i with
  | nil => simp [encodeBits, hx]
  | cons y ys ih =>
    obtain ⟨hy, hys⟩ := List.forall_mem_cons.1 hpre
    simp only [List.cons_append, encodeBits, if_neg hy, ih (i + 1) hys, List.length_cons]
    congr 1
    omega

theorem Codes.length_flatMap_code (c : Codes) (input : List Byte) :
    (input.flatMap c.code).length = (input.map fun x => (Table.at c.len x).toNat).sum := by
  simp [List.length_flatMap]

/-- A LEN entry is a byte, so each symbol adds at most 255 bits. -/
theorem Codes.length_flatMap_code_le (c : Codes) (input : List Byte) :
    (input.flatMap c.code).length ≤ 255 * input.length := by
  induction input with
  | nil => simp
  | cons x xs ih =>
    have hx := (Table.at c.len x).isLt
    simp only [List.flatMap_cons, List.length_append, Codes.length_code, List.length_cons]
    omega

/-- Settles O34: EncodeBits' success and its first failure, by induction on the input. -/
theorem encodeBitsConcatenates : Obligations.EncodeBitsConcatenates := by
  unfold Obligations.EncodeBitsConcatenates
  intro c input
  constructor
  · intro hall
    exact ⟨_, encodeBits_ok_iff.2 ⟨hall, rfl⟩, rfl, c.length_flatMap_code input, c.length_flatMap_code_le input⟩
  · rintro pre post x rfl hpre hx
    rw [encodeBits_first_uncoded 0 post hpre hx, Nat.zero_add]

end Sys2Proof.Machine
end

section
/-! PROOFS. Where the bits of a packed string stand, and that Pack and Unpack undo each other (40_datapath R160 to
R162). -/

namespace Sys2Proof.Machine

/-- In a concatenation of blocks of `m` elements, element `m * k + i` is element `i` of block `k`. -/
theorem getElem?_flatMap_of_length {α β : Type} {f : α → List β} {m : Nat} (hf : ∀ a, (f a).length = m) (l : List α)
    (k : Nat) {i : Nat} (hi : i < m) : (l.flatMap f)[m * k + i]? = l[k]?.bind fun a => (f a)[i]? := by
  induction l generalizing k with
  | nil => simp
  | cons a l ih =>
    rw [List.flatMap_cons]
    cases k with
    | zero => rw [List.getElem?_append_left (by rw [hf]; omega)]; simp
    | succ k =>
      have hpos : m * (k + 1) + i = (f a).length + (m * k + i) := by rw [hf, Nat.mul_succ]; omega
      rw [hpos, List.getElem?_append_right (Nat.le_add_right ..), Nat.add_sub_cancel_left, ih, List.getElem?_cons_succ]

/-- The packed byte as the number of a bit string, least significant bit first. -/
theorem byteOf_eq (bits : Bits) :
    byteOf bits = BitVec.ofNat 8 (bitsNat ((List.range 8).map fun i => bits.getD (7 - i) false)) := by
  have hrange : List.range 8 = [0, 1, 2, 3, 4, 5, 6, 7] := rfl
  simp only [byteOf, hrange, List.map_cons, List.map_nil, List.sum_cons, List.sum_nil, bitsNat,
    Nat.reduceSub]
  congr 1
  omega

theorem getLsbD_byteOf (bits : Bits) {i : Nat} (hi : i < 8) : (byteOf bits).getLsbD i = bits.getD (7 - i) false := by
  rw [byteOf_eq, BitVec.getLsbD_ofNat, testBit_bitsNat]
  simp [hi]

theorem getElem?_packBytes {m k : Nat} (hk : k < m) (bits : Bits) :
    (packBytes m bits)[k]? = some (byteOf ((bits.drop (8 * k)).take 8)) := by
  induction m generalizing k bits with
  | zero => omega
  | succ m ih =>
    cases k with
    | zero => simp [packBytes]
    | succ k =>
      rw [packBytes, List.getElem?_cons_succ, ih (by omega), List.drop_drop, Nat.mul_succ, Nat.add_comm 8]

/-- The packed bytes hold the string's bits in order, most significant bit first (40_datapath R160). -/
theorem getLsbD_packBits (bits : Bits) {k i : Nat} (hk : k < packedLen bits) (hi : i < 8) :
    ((packBits bits).getD k 0#8).getLsbD i = bits.getD (8 * k + (7 - i)) false := by
  rw [List.getD_eq_getElem?_getD, packBits, getElem?_packBytes hk, Option.getD_some, getLsbD_byteOf _ hi]
  simp [show 7 - i < 8 by omega]

/-- Settles O35: the packed length, the padding and the bits' places. -/
theorem packPutsBitsMsbFirst : Obligations.PackPutsBitsMsbFirst := by
  unfold Obligations.PackPutsBitsMsbFirst
  intro bits
  refine ⟨length_packBits bits, rfl, fun k i hk hi => ?_⟩
  rw [getLsbD_packBits bits hk (by omega), show 7 - (7 - i) = i by omega]

theorem getElem?_bitsOf (b : Byte) {i : Nat} (hi : i < 8) : (bitsOf b)[i]? = some (b.getLsbD (7 - i)) := by
  simp [bitsOf, hi]

theorem getElem?_flatMap_bitsOf (P : List Byte) (k : Nat) {i : Nat} (hi : i < 8) :
    (P.flatMap bitsOf)[8 * k + i]? = P[k]?.map fun b => b.getLsbD (7 - i) := by
  rw [getElem?_flatMap_of_length length_bitsOf P k hi]
  cases P[k]? with
  | none => rfl
  | some b => exact getElem?_bitsOf b hi

theorem length_flatMap_bitsOf (P : List Byte) : (P.flatMap bitsOf).length = 8 * P.length := by
  simp [List.length_flatMap, Nat.mul_comm]

@[simp] theorem length_unpackBits (P : List Byte) (pad : Nat) : (unpackBits P pad).length = 8 * P.length - pad := by
  rw [unpackBits, List.length_take, length_flatMap_bitsOf, Nat.min_eq_left (Nat.sub_le ..)]

/-- The unpacked string holds the bytes' bits in order, most significant bit first (40_datapath R161). -/
theorem getD_unpackBits (P : List Byte) (pad : Nat) (k : Nat) {i : Nat} (hi : i < 8) :
    (unpackBits P pad).getD (8 * k + i) false =
      if 8 * k + i < 8 * P.length - pad then (P.getD k 0#8).getLsbD (7 - i) else false := by
  rw [List.getD_eq_getElem?_getD, List.getD_eq_getElem?_getD, unpackBits, List.getElem?_take]
  split
  · rw [getElem?_flatMap_bitsOf P k hi]
    cases P[k]? <;> simp
  · rfl

theorem unpackBits_packBits (bits : Bits) : unpackBits (packBits bits) (padCount bits) = bits := by
  have hlen : 8 * packedLen bits - padCount bits = bits.length := by rw [← length_add_padCount]; omega
  refine List.ext_getElem (by simp [hlen]) fun t ht ht' => ?_
  have hi : t % 8 < 8 := Nat.mod_lt _ (by decide)
  have hk : t / 8 < packedLen bits := by rw [packedLen]; omega
  have hbit := getD_unpackBits (packBits bits) (padCount bits) (t / 8) hi
  rw [Nat.div_add_mod, length_packBits, hlen, if_pos ht', getLsbD_packBits bits hk (by omega),
    show 8 * (t / 8) + (7 - (7 - t % 8)) = t by omega] at hbit
  simpa only [List.getD_eq_getElem _ _ ht, List.getD_eq_getElem _ _ ht'] using hbit

/-- Settles O36: Unpack of Pack bit by bit, and Pack of Unpack byte by byte. -/
theorem packUnpackInverse : Obligations.PackUnpackInverse := by
  unfold Obligations.PackUnpackInverse
  refine ⟨unpackBits_packBits, fun P pad hpad hnil => ?_⟩
  have hpos : P.length = 0 → pad = 0 := fun h => hnil (List.length_eq_zero_iff.1 h)
  have hlen : packedLen (unpackBits P pad) = P.length := by rw [packedLen, length_unpackBits]; omega
  refine ⟨by rw [padCount, length_unpackBits]; omega, by rw [length_packBits, hlen], fun k i hk hi => ?_⟩
  have hcleared : 8 * k + (7 - i) < 8 * P.length - pad ↔ ¬ (k + 1 = P.length ∧ i < pad) := by omega
  rw [getLsbD_packBits _ (by rwa [hlen]) hi, getD_unpackBits P pad k (by omega), show 7 - (7 - i) = i by omega]
  simp only [hcleared, ite_not]

end Sys2Proof.Machine
end

section
/-! PROOFS. The tree walk along a path to a leaf, and the walk of a one-leaf tree (40_datapath R165, R166). -/

namespace Sys2Proof.Machine

theorem walkLeaf_fits (cap : Nat) (s : Byte) {room : Nat} {bits : Bits} (h : bits.length ≤ room) :
    walkLeaf cap s room bits = .ok (List.replicate bits.length s) := by
  induction bits generalizing room with
  | nil => cases room <;> rfl
  | cons b bits ih =>
    cases room with
    | zero => simp at h
    | succ room => simp only [walkLeaf, ih (Nat.le_of_succ_le_succ h), List.length_cons, List.replicate_succ]

theorem walkLeaf_overflows (cap : Nat) (s : Byte) {room : Nat} {bits : Bits} (h : room < bits.length) :
    walkLeaf cap s room bits = .error (.capacity, word cap) := by
  induction bits generalizing room with
  | nil => simp at h
  | cons b bits ih =>
    cases room with
    | zero => rfl
    | succ room => simp only [walkLeaf, ih (Nat.lt_of_succ_lt_succ h)]

theorem walkBits_leaf {A : Arena} {root : NodeIdx} {s : Byte} {f : Word} (h : A[root] = .leaf s f) (bits : Bits)
    (cap : Nat) : walkBits A root bits cap = walkLeaf cap s cap bits := by
  simp only [walkBits, h]

theorem walkBits_internal {A : Arena} {root l r : NodeIdx} {f : Word} (h : A[root] = .internal f l r) (bits : Bits)
    (cap : Nat) : walkBits A root bits cap = walkFrom A root cap cap 0 0 root bits := by
  simp only [walkBits, h]

/-- Settles O37: the walk of a one-leaf tree is `walkLeaf` with the whole capacity as room. -/
theorem singleLeafWalk : Obligations.SingleLeafWalk := by
  unfold Obligations.SingleLeafWalk
  intro A root s f bits cap hroot
  rw [walkBits_leaf hroot]
  exact ⟨walkLeaf_fits cap s, walkLeaf_overflows cap s⟩

theorem leafAt_leaf {A : Arena} {j : NodeIdx} {s : Byte} {f : Word} (h : A[j] = .leaf s f) (p : Bits) (x : Byte) :
    LeafAt A j p x ↔ p = [] ∧ s = x := by
  cases p <;> simp [LeafAt, h]

theorem leafAt_internal {A : Arena} {j l r : NodeIdx} {f : Word} (h : A[j] = .internal f l r) (p : Bits) (x : Byte) :
    LeafAt A j p x ↔ ∃ b q, p = b :: q ∧ LeafAt A (if b then r else l) q x := by
  cases p with
  | nil => simp [LeafAt, h]
  | cons b q => cases b <;> simp [LeafAt, h]

theorem child_internal {A : Arena} {j l r : NodeIdx} {f : Word} (h : A[j] = .internal f l r) (b : Bool) :
    child A j b = if b then r else l := by
  simp only [child, h]

/-- A path goes on from the child that its first bit leads to. -/
theorem leafAt_child {A : Arena} {j : NodeIdx} {b : Bool} {p : Bits} {x : Byte} (h : LeafAt A j (b :: p) x) :
    LeafAt A (child A j b) p x := by
  cases hj : A[j] with
  | leaf s f => simp [leafAt_leaf hj] at h
  | internal f l r =>
    obtain ⟨_, _, ⟨rfl, rfl⟩, hq⟩ := (leafAt_internal hj _ _).1 h
    rwa [child_internal hj]

theorem walkFrom_to_internal {A : Arena} {cur l r : NodeIdx} {b : Bool} {f : Word}
    (h : A[child A cur b] = .internal f l r) (root : NodeIdx) (cap room t start : Nat) (bits : Bits) :
    walkFrom A root cap room t start cur (b :: bits) =
      walkFrom A root cap room (t + 1) (if cur = root then t else start) (child A cur b) bits := by
  simp only [walkFrom, h]

theorem walkFrom_to_leaf {A : Arena} {root cur : NodeIdx} {cap room t start : Nat} {b : Bool} {bits : Bits} {s : Byte}
    {f : Word} {out : List Byte} (h : A[child A cur b] = .leaf s f)
    (hrest : walkFrom A root cap room (t + 1) (if cur = root then t else start) root bits = .ok out) :
    walkFrom A root cap (room + 1) t start cur (b :: bits) = .ok (s :: out) := by
  simp only [walkFrom, h, hrest]

/-- Along a path to a leaf the walk emits the leaf's symbol and goes on from the root. The bit counters `t` and `start`
only feed the error's detail, so the rest of the walk is asked to succeed whatever they are. -/
theorem walkFrom_path {A : Arena} {root cur : NodeIdx} {cap room : Nat} {p rest : Bits} {x : Byte} {out : List Byte}
    (hpath : LeafAt A cur p x) (hp : p ≠ []) (hrest : ∀ t start, walkFrom A root cap room t start root rest = .ok out)
    (t start : Nat) : walkFrom A root cap (room + 1) t start cur (p ++ rest) = .ok (x :: out) := by
  induction p generalizing cur t start with
  | nil => exact absurd rfl hp
  | cons b p ih =>
    have hnext := leafAt_child hpath
    rw [List.cons_append]
    cases hc : A[child A cur b] with
    | leaf s f =>
      obtain ⟨rfl, rfl⟩ := (leafAt_leaf hc p x).1 hnext
      exact walkFrom_to_leaf hc (hrest _ _)
    | internal f l r =>
      obtain ⟨_, _, rfl, _⟩ := (leafAt_internal hc p x).1 hnext
      rw [walkFrom_to_internal hc]
      exact ih hnext (List.cons_ne_nil _ _) _ _

/-- Walking the concatenated paths of an input gives the input, if it fits. -/
theorem walkFrom_flatMap {A : Arena} {root : NodeIdx} {code : Byte → Bits} {cap room : Nat} {input : List Byte}
    (hpath : ∀ x ∈ input, LeafAt A root (code x) x) (hne : ∀ x ∈ input, code x ≠ []) (hfits : input.length ≤ room)
    (t start : Nat) : walkFrom A root cap room t start root (input.flatMap code) = .ok input := by
  induction input generalizing room t start with
  | nil => simp [walkFrom]
  | cons x xs ih =>
    obtain ⟨hx, hxs⟩ := List.forall_mem_cons.1 hpath
    obtain ⟨hnx, hnxs⟩ := List.forall_mem_cons.1 hne
    cases room with
    | zero => simp at hfits
    | succ room =>
      rw [List.flatMap_cons]
      exact walkFrom_path hx hnx (ih hxs hnxs (Nat.le_of_succ_le_succ hfits)) t start

end Sys2Proof.Machine
end

section
/-! PROOFS. GenCodes gives every symbol it codes the path to a leaf of that symbol (40_datapath R150), and so the walk
undoes the encoding (R167). -/

namespace Sys2Proof.Machine

theorem visit_leaf {A : Arena} {j : NodeIdx} {s : Byte} {f : Word} (h : A[j] = .leaf s f) (depth : Nat) (p : Bits)
    (c : Codes) : visit A (depth + 1) j p c = .ok (c.record s p) := by
  simp only [visit, h]

theorem visit_internal {A : Arena} {j l r : NodeIdx} {f : Word} (h : A[j] = .internal f l r) {depth : Nat} {p : Bits}
    {c c' : Codes} (hv : visit A (depth + 1) j p c = .ok c') :
    ∃ c₁, visit A depth l (p ++ [false]) c = .ok c₁ ∧ visit A depth r (p ++ [true]) c₁ = .ok c' := by
  simp only [visit, h] at hv
  cases hl : visit A depth l (p ++ [false]) c with
  | error e => simp [hl] at hv
  | ok c₁ => exact ⟨c₁, rfl, by simpa [hl] using hv⟩

/-- What Visit(`j`, `p`) leaves in a table: each code is the earlier one, or `p` and then a path from `j` to a leaf of
its symbol. The depth left bounds the length of `p`, so every code fits the table. -/
theorem visit_code {A : Arena} {depth : Nat} {j : NodeIdx} {p : Bits} {c c' : Codes}
    (hv : visit A depth j p c = .ok c') (hroom : p.length + depth ≤ 256) (x : Byte) :
    c'.code x = c.code x ∨ ∃ q, LeafAt A j q x ∧ c'.code x = p ++ q := by
  induction depth generalizing j p c c' with
  | zero => simp [visit] at hv
  | succ depth ih =>
    cases hj : A[j] with
    | leaf s f =>
      rw [visit_leaf hj, Except.ok.injEq] at hv
      subst hv
      by_cases hx : x = s
      · subst hx
        exact .inr ⟨[], (leafAt_leaf hj _ _).2 ⟨rfl, rfl⟩, by rw [c.code_record_same x (by omega), List.append_nil]⟩
      · exact .inl (c.code_record_other p hx)
    | internal f l r =>
      obtain ⟨c₁, hl, hr⟩ := visit_internal hj hv
      have hroom' (b : Bool) : (p ++ [b]).length + depth ≤ 256 := by simp; omega
      have below (b : Bool) {q : Bits} {d : Codes} (hq : LeafAt A (if b then r else l) q x)
          (hcode : d.code x = p ++ [b] ++ q) : ∃ q, LeafAt A j q x ∧ d.code x = p ++ q :=
        ⟨b :: q, (leafAt_internal hj _ _).2 ⟨b, q, rfl, hq⟩, by simp [hcode]⟩
      rcases ih hr (hroom' true) with hright | ⟨q, hq, hcode⟩
      · rw [hright]
        rcases ih hl (hroom' false) with hleft | ⟨q, hq, hcode⟩
        · exact .inl hleft
        · exact .inr (below false hq hcode)
      · exact .inr (below true hq hcode)

theorem genCodes_internal {A : Arena} {root l r : NodeIdx} {f : Word} (h : A[root] = .internal f l r) :
    genCodes A root = visit A 256 root [] Codes.empty := by
  simp only [genCodes, h, Config.maxCodeLenHw]

/-- Of a tree with an internal root, every code GenCodes gives is the path to a leaf of its symbol. -/
theorem leafAt_of_genCodes {A : Arena} {root l r : NodeIdx} {f : Word} {c : Codes} (hroot : A[root] = .internal f l r)
    (hgen : genCodes A root = .ok c) {x : Byte} (hx : Table.at c.len x ≠ 0#8) : LeafAt A root (c.code x) x := by
  rw [genCodes_internal hroot] at hgen
  rcases visit_code hgen (by decide) x with hempty | ⟨q, hq, hcode⟩
  · exact absurd (Codes.code_eq_nil.1 (hempty.trans (Codes.code_eq_nil.2 (Codes.at_len_empty x)))) hx
  · rwa [hcode, List.nil_append]

/-- Of a tree with an internal root, the walk undoes the encoding. -/
theorem walkBits_encodeBits_internal {A : Arena} {root l r : NodeIdx} {f : Word} {c : Codes} {input : List Byte}
    {cap : Nat} (hroot : A[root] = .internal f l r) (hgen : genCodes A root = .ok c)
    (hcoded : ∀ x ∈ input, Table.at c.len x ≠ 0#8) (hfits : input.length ≤ cap) :
    walkBits A root (input.flatMap c.code) cap = .ok input := by
  rw [walkBits_internal hroot]
  exact walkFrom_flatMap (fun x hx => leafAt_of_genCodes hroot hgen (hcoded x hx))
    (fun x hx hnil => hcoded x hx (Codes.code_eq_nil.1 hnil)) hfits 0 0

/-- Of a one-leaf tree, every symbol of an encoded input is the leaf's and adds the one bit of its code "0". -/
theorem walkBits_encodeBits_leaf {A : Arena} {root : NodeIdx} {s : Byte} {f : Word} {c : Codes} {input : List Byte}
    {cap : Nat} (hroot : A[root] = .leaf s f) (hgen : genCodes A root = .ok c)
    (hcoded : ∀ x ∈ input, Table.at c.len x ≠ 0#8) (hfits : input.length ≤ cap) :
    walkBits A root (input.flatMap c.code) cap = .ok input := by
  rw [genCodes_leaf hroot, Except.ok.injEq] at hgen
  subst hgen
  have hsym : ∀ x ∈ input, x = s := fun x hx => by
    by_contra hne
    exact hcoded x hx (by rw [Codes.at_len_record_other _ _ hne, Codes.at_len_empty])
  obtain ⟨n, rfl⟩ : ∃ n, input = List.replicate n s := ⟨_, List.eq_replicate_of_mem hsym⟩
  have hbits : ((List.replicate n s).flatMap (Codes.empty.record s [false]).code).length = n := by
    simp
  rw [walkBits_leaf hroot, walkLeaf_fits cap s (by rw [hbits]; simpa using hfits), hbits]

/-- Settles O38: Unpack undoes Pack, so what is walked is the input's codes, each the path to its symbol's leaf. That
GenCodes succeeded is all this needs of the tree. -/
theorem walkInvertsEncode : Obligations.WalkInvertsEncode := by
  unfold Obligations.WalkInvertsEncode
  intro F b c input bits cap _ hgen henc hfits
  obtain ⟨hcoded, rfl⟩ := encodeBits_ok_iff.1 henc
  rw [unpackBits_packBits]
  cases hroot : b.arena[b.root] with
  | leaf s f => exact walkBits_encodeBits_leaf hroot hgen hcoded hfits
  | internal f l r => exact walkBits_encodeBits_internal hroot hgen hcoded hfits

end Sys2Proof.Machine
end

section
/-! PROOFS. Frequency analysis: the counts do not wrap, and they add up to the input's length (40_datapath R130). -/

namespace Sys2Proof.Machine

theorem freqOf_countSymbols {input : List Byte} (h : input.length < 2 ^ 32) (b : Byte) :
    freqOf (countSymbols input) b = input.count b := by
  rw [freqOf, at_countSymbols, toNat_word (Nat.lt_of_le_of_lt List.count_le_length h)]

theorem allSymbols_nodup : allSymbols.Nodup :=
  allSymbols_ascending.imp fun hlt heq => Nat.ne_of_lt hlt (congrArg _ heq)

/-- The counts of distinct symbols, every input symbol among them, add up to the input's length. -/
theorem sum_count_of_nodup {α : Type} [DecidableEq α] {syms input : List α} (hnodup : syms.Nodup)
    (hall : ∀ x ∈ input, x ∈ syms) : (syms.map fun x => input.count x).sum = input.length := by
  have hsum := Multiset.sum_count_eq_card (s := syms.toFinset) (m := (input : Multiset α)) fun x hx =>
    List.mem_toFinset.2 (hall x hx)
  simpa only [List.sum_toFinset _ hnodup, Multiset.coe_count, Multiset.coe_card] using hsum

/-- Settles O28: Count's entries are the counts, from which the sum and the present symbols follow. -/
theorem countCountsSymbols : Obligations.CountCountsSymbols := by
  unfold Obligations.CountCountsSymbols
  intro input hlen
  have hcount := freqOf_countSymbols (input := input) (by omega)
  refine ⟨hcount, ?_, fun b => ?_⟩
  · rw [freqSum, List.map_congr_left fun b _ => hcount b]
    exact sum_count_of_nodup allSymbols_nodup fun b _ => mem_allSymbols b
  · rw [mem_present, hcount, ← Nat.pos_iff_ne_zero, List.count_pos_iff]

end Sys2Proof.Machine
end

section
/-! PROOFS. Where each field of a serialized blob stands (40_datapath R170). -/

namespace Sys2Proof.Machine

theorem extractLsb'_ofNat_byte (v : Nat) {i : Nat} (hi : i < 4) :
    (BitVec.ofNat 32 v).extractLsb' (8 * i) 8 = BitVec.ofNat 8 (v / 2 ^ (8 * i)) := by
  apply BitVec.eq_of_getLsbD_eq
  intro j hj
  have hpos : 8 * i + j < 32 := by omega
  simp only [BitVec.getLsbD_extractLsb', BitVec.getLsbD_ofNat, Nat.testBit_div_two_pow, hj, hpos, Nat.add_comm j,
    decide_true, Bool.true_and]

/-- Byte `i` of an int32 field is bits [8i+7:8i] of its value (00_scope R13). -/
theorem getElem?_le32 (v : Nat) {i : Nat} (hi : i < 4) :
    (le32 v)[i]? = some ((BitVec.ofNat 32 v).extractLsb' (8 * i) 8) := by
  rw [extractLsb'_ofNat_byte v hi]
  match i, hi with
  | 0, _ => simp [le32]
  | 1, _ => rfl
  | 2, _ => rfl
  | 3, _ => rfl

theorem length_headerEntry (F : Table Word) (s : Byte) : (headerEntry F s).length = 5 := rfl

theorem length_header (F : Table Word) (ss : List Byte) : (ss.flatMap (headerEntry F)).length = 5 * ss.length := by
  simp [List.length_flatMap, length_headerEntry, Nat.mul_comm]

theorem length_serialize (F : Table Word) (P : List Byte) (pad : Nat) :
    (serialize F P pad).length = 22 + 5 * (present F).length + P.length := by
  simp only [serialize, List.length_append, length_le32, length_header, Config.marker, List.length_cons,
    List.length_nil]
  omega

/-! ### The blob from each field on -/

theorem drop_serialize_header (F : Table Word) (P : List Byte) (pad : Nat) :
    (serialize F P pad).drop 4 =
      (present F).flatMap (headerEntry F) ++ (Config.marker ++ le32 P.length ++ le32 pad ++ P) := by
  simp only [serialize, List.append_assoc]
  exact List.drop_left' rfl

theorem drop_serialize_marker (F : Table Word) (P : List Byte) (pad : Nat) :
    (serialize F P pad).drop (4 + 5 * (present F).length) = Config.marker ++ (le32 P.length ++ le32 pad ++ P) := by
  rw [← List.drop_drop, drop_serialize_header, List.drop_left' (length_header ..)]
  simp only [List.append_assoc]

theorem drop_serialize_length (F : Table Word) (P : List Byte) (pad : Nat) :
    (serialize F P pad).drop (14 + 5 * (present F).length) = le32 P.length ++ (le32 pad ++ P) := by
  rw [show 14 + 5 * (present F).length = 4 + 5 * (present F).length + 10 by omega, ← List.drop_drop,
    drop_serialize_marker, List.append_assoc]
  exact List.drop_left' rfl

theorem drop_serialize_pad (F : Table Word) (P : List Byte) (pad : Nat) :
    (serialize F P pad).drop (18 + 5 * (present F).length) = le32 pad ++ P := by
  rw [show 18 + 5 * (present F).length = 14 + 5 * (present F).length + 4 by omega, ← List.drop_drop,
    drop_serialize_length]
  exact List.drop_left' rfl

theorem drop_serialize_payload (F : Table Word) (P : List Byte) (pad : Nat) :
    (serialize F P pad).drop (22 + 5 * (present F).length) = P := by
  rw [show 22 + 5 * (present F).length = 18 + 5 * (present F).length + 4 by omega, ← List.drop_drop,
    drop_serialize_pad]
  exact List.drop_left' rfl

/-! ### The bytes of each field -/

theorem getElem?_of_drop {α : Type} {l field post : List α} {n i : Nat} (h : l.drop n = field ++ post)
    (hi : i < field.length) : l[n + i]? = field[i]? := by
  rw [← List.getElem?_drop, h, List.getElem?_append_left hi]

theorem getElem?_int32_of_drop {l post : List Byte} {n v i : Nat} (h : l.drop n = le32 v ++ post) (hi : i < 4) :
    l[n + i]? = some ((BitVec.ofNat 32 v).extractLsb' (8 * i) 8) := by
  rw [getElem?_of_drop h hi, getElem?_le32 v hi]

theorem getElem?_serialize_count (F : Table Word) (P : List Byte) (pad : Nat) {i : Nat} (hi : i < 4) :
    (serialize F P pad)[i]? = some ((BitVec.ofNat 32 (present F).length).extractLsb' (8 * i) 8) := by
  simp only [serialize, List.append_assoc]
  rw [List.getElem?_append_left (by simpa using hi), getElem?_le32 _ hi]

/-- Byte `i` of header pair `n` of a blob. -/
theorem getElem?_serialize_pair {F : Table Word} {n : Nat} {s : Byte} (h : (present F)[n]? = some s) (P : List Byte)
    (pad : Nat) {i : Nat} (hi : i < 5) : (serialize F P pad)[4 + (5 * n + i)]? = (headerEntry F s)[i]? := by
  have hn : n < (present F).length := (List.getElem?_eq_some_iff.1 h).1
  rw [getElem?_of_drop (drop_serialize_header F P pad) (by rw [length_header]; omega),
    getElem?_flatMap_of_length (length_headerEntry F) _ n hi, h, Option.bind_some]

/-- Settles O40: field after field, from what the blob is from each field's offset on. -/
theorem blobLayout : Obligations.BlobLayout := by
  unfold Obligations.BlobLayout
  intro F P pad
  refine ⟨present_ascending F, fun x => ?_, length_serialize F P pad, fun i => getElem?_serialize_count F P pad,
    fun n s hs => ⟨?_, fun i hi => ?_⟩, ?_, fun i => getElem?_int32_of_drop (drop_serialize_length F P pad),
    fun i => getElem?_int32_of_drop (post := P) (drop_serialize_pad F P pad), drop_serialize_payload F P pad⟩
  · rw [mem_present, Ne, freqOf_eq_zero]
  · exact getElem?_serialize_pair hs P pad (i := 0) (by decide)
  · have hfreq : BitVec.ofNat 32 (freqOf F s) = Table.at F s := by rw [freqOf, BitVec.ofNat_toNat, BitVec.setWidth_eq]
    rw [Nat.add_assoc, Nat.add_assoc, getElem?_serialize_pair hs P pad (by omega), Nat.add_comm 1, headerEntry,
      List.getElem?_cons_succ, getElem?_le32 _ hi, hfreq]
  · rw [drop_serialize_marker]
    exact List.take_left' rfl

end Sys2Proof.Machine
end

section
/-! PROOFS. ANALYZE (41_encode R180): the symbols present in the counted table are those of the input, since a count of at
most IN_LEN does not wrap to 0. -/

namespace Sys2Proof.Machine

theorem State.length_input_lt (s : State) : s.input.length < 2 ^ 32 := by
  rw [State.input, Memory.length_bytes]
  exact s.inLen.isLt

/-- The present symbols of the counted table are the symbols that occur in the input. -/
theorem present_countSymbols {input : List Byte} (h : input.length < 2 ^ 32) :
    present (countSymbols input) = allSymbols.filter fun b => input.contains b := by
  rw [present_eq_filter]
  refine List.filter_congr fun b _ => Bool.eq_iff_iff.2 ?_
  rw [bne_iff_ne, Ne, ← freqOf_eq_zero, freqOf_countSymbols h, List.count_eq_zero, not_not, List.contains_iff_mem]

/-- ANALYZE with every field it writes. -/
theorem exec_analyze (s : State) :
    exec .analyze s = .next { s with
      freq := countSymbols s.input, symCount := word (present (countSymbols s.input)).length, total := s.inLen,
      treeValid := false, codesValid := false, payloadValid := false, treeRoot := 0, maxCodeLen := 0#32,
      payLen := 0#32, pad := 0#32, bitLen := 0#32,
      phase := .idle, done := true, err := .none, errInfo := 0#32 } := rfl

/-- Settles O44: the table written is Count's, whose entries and present symbols are known. -/
theorem analyzeCountsTheInput : Obligations.AnalyzeCountsTheInput := by
  unfold Obligations.AnalyzeCountsTheInput
  intro s
  refine ⟨countSymbols s.input, ?_, at_countSymbols s.input⟩
  rw [exec_analyze, present_countSymbols s.length_input_lt]

end Sys2Proof.Machine
end

section
/-! PROOFS. CLEAR (43_control R231): it writes the reset images of the tables and the arena, whose every entry is 0. -/

namespace Sys2Proof.Machine

theorem getElem_unused (j : NodeIdx) : Arena.unused[j] = Node.unused := Vector.getElem_replicate j.isLt

/-- An unused entry's two words (10_state R50). -/
theorem words_unused : Node.unused.word0 = 0#32 ∧ Node.unused.word1 = 0#32 := by decide

/-- CLEAR with every field it writes. -/
theorem exec_clear (s : State) :
    exec .clear s = .next { s with
      freq := Table.const 0#32, codeLen := Table.const 0#8, codeBits := Table.const 0#256, node := Arena.unused,
      treeValid := false, codesValid := false, payloadValid := false, treeRoot := 0, maxCodeLen := 0#32,
      payLen := 0#32, pad := 0#32, bitLen := 0#32, outLen := 0#32, symCount := 0#32, total := 0#32,
      phase := .idle, done := true, err := .none, errInfo := 0#32 } := rfl

/-- Settles O43: the tables and the arena written are the constant ones, read entry by entry. -/
theorem clearZeroesTheDatapath : Obligations.ClearZeroesTheDatapath := by
  unfold Obligations.ClearZeroesTheDatapath
  intro s
  refine ⟨_, _, _, _, exec_clear s, fun b => ⟨?freq, ?codeLen, ?codeBits⟩, fun j => ?node⟩
  case freq => exact Table.at_const 0#32 b
  case codeLen => exact Table.at_const 0#8 b
  case codeBits => exact Table.at_const 0#256 b
  case node =>
    rw [getElem_unused]
    exact words_unused

end Sys2Proof.Machine
end

section
/-! PROOFS. HOST writes while BUSY (70_reset R362): a CMD write is dropped by command issue (10_state R35), every other
write but those to STATUS and IRQ_EN by the write itself (20_memory R86). -/

namespace Sys2Proof.Machine

/-- Which location a write reaches matters, outside the three registers the sequencer answers, only while IDLE. -/
theorem State.memWrite_other {off : Word} (hcmd : locate off ≠ .reg .cmd) (hstatus : locate off ≠ .reg .status)
    (hirq : locate off ≠ .reg .irqEn) (s : State) (v : Word) :
    s.memWrite off v = if s.busy then s.dropWrite else s.acceptWrite (locate off) v := by
  unfold State.memWrite
  split
  case h_1 h => exact absurd h hstatus
  case h_2 h => exact absurd h hirq
  case h_3 h => exact absurd h hcmd
  case h_4 => rfl

/-- A write is dropped while BUSY, by issue at CMD and by the write itself elsewhere. -/
theorem State.memWrite_busy {s : State} {off : Word} (hbusy : s.phase = .busy)
    (hstatus : locate off ≠ .reg .status) (hirq : locate off ≠ .reg .irqEn) (v : Word) :
    s.memWrite off v = s.dropWrite := by
  by_cases hcmd : locate off = .reg .cmd
  · rw [State.memWrite_cmd hcmd, State.issue_busy hbusy]
  · rw [State.memWrite_other hcmd hstatus hirq, if_pos (State.busy_iff.2 hbusy)]

/-- Settles O24: a dropped write is `dropWrite`, which sets WDROP only. -/
theorem busyWritesAreDropped : Obligations.BusyWritesAreDropped := by
  unfold Obligations.BusyWritesAreDropped
  intro s off v hbusy hstatus hirq
  exact State.memWrite_busy hbusy hstatus hirq v

end Sys2Proof.Machine
end

section
/-! PROOFS. Decoding and encoding of command words (30_encoding R112, R114): the words that decode are the eleven words
`encode` gives, and so are the words with RSVD zero and a listed OPC. -/

namespace Sys2Proof.Machine

theorem decode_encode (i : Instr) : decode (encode i) = .ok i := by
  cases i <;> rfl

theorem encode_of_decode {w : Word} {i : Instr} (h : decode w = .ok i) : encode i = w := by
  unfold decode at h
  split at h
  case h_12 => split at h <;> cases h
  all_goals
    cases h
    exact BitVec.eq_of_toNat_eq (Eq.symm (by assumption))

theorem wordWf_encode (i : Instr) : wordWf (encode i) = true := by
  cases i
  case nop => exact Laws.LegalWord.nop.2
  case clear => exact Laws.LegalWord.clear.2
  case analyze => exact Laws.LegalWord.analyze.2
  case buildTree => exact Laws.LegalWord.buildTree.2
  case genCodes => exact Laws.LegalWord.genCodes.2
  case pack => exact Laws.LegalWord.pack.2
  case serialize => exact Laws.LegalWord.serialize.2
  case encode => exact Laws.LegalWord.encode.2
  case parse => exact Laws.LegalWord.parse.2
  case walk => exact Laws.LegalWord.walk.2
  case decode => exact Laws.LegalWord.decode.2

/-- A word with RSVD zero is its OPC field with zeros above (30_encoding R110). -/
theorem eq_zeroExtend_of_rsvdZero {w : Word} (h : rsvdZero w = true) : w = (w.extractLsb' 0 8).zeroExtend 32 := by
  have hrsvd : (w.extractLsb' 8 24).toNat = 0 := by rw [eq_of_beq h]; rfl
  have hlt := w.isLt
  apply BitVec.eq_of_toNat_eq
  simp only [BitVec.extractLsb'_toNat, Nat.shiftRight_eq_div_pow, BitVec.truncate_eq_setWidth,
    BitVec.toNat_setWidth] at hrsvd ⊢
  omega

theorem exists_encode_of_wordWf {w : Word} (h : wordWf w = true) : ∃ i, encode i = w := by
  obtain ⟨hrsvd, hopc⟩ := Bool.and_eq_true_iff.1 h
  have hlisted : w.extractLsb' 0 8 ∈ opcodes := List.contains_iff_mem.1 hopc
  rw [eq_zeroExtend_of_rsvdZero hrsvd]
  generalize w.extractLsb' 0 8 = opc at hlisted
  have hall : ∀ o ∈ opcodes, ∃ i ∈ [Instr.nop, .clear, .analyze, .buildTree, .genCodes, .pack, .serialize, .encode,
      .parse, .walk, .decode], encode i = o.zeroExtend 32 := by decide
  obtain ⟨i, _, hi⟩ := hall opc hlisted
  exact ⟨i, hi⟩

/-- Settles O9: the words that decode are the encodings, and those are the legal words. -/
theorem decodeEncodeAgree : Obligations.DecodeEncodeAgree := by
  unfold Obligations.DecodeEncodeAgree
  refine ⟨fun i _ => decode_encode i, fun w i => encode_of_decode, fun w => ⟨?_, ?_⟩⟩
  · rintro ⟨e, he⟩
    refine Bool.eq_false_iff.2 fun hwf => ?_
    obtain ⟨i, rfl⟩ := exists_encode_of_wordWf hwf
    rw [decode_encode] at he
    cases he
  · intro hwf
    cases hdec : decode w with
    | error e => exact ⟨e, rfl⟩
    | ok i =>
      rw [← encode_of_decode hdec, wordWf_encode] at hwf
      cases hwf

/-- Settles O10: each word by evaluating the decoder on it. -/
theorem opcodeMapWords : Obligations.OpcodeMapWords := by
  unfold Obligations.OpcodeMapWords
  decide

end Sys2Proof.Machine
end

section
/-! PROOFS. The STATUS word field by field (10_state R37), and the bytes of a little-endian word (20_memory R83). -/

namespace Sys2Proof.Machine

theorem State.getLsbD_status (s : State) :
    s.status.getLsbD 0 = s.busy ∧ s.status.getLsbD 1 = s.done ∧ s.status.getLsbD 2 = s.error ∧
    s.status.getLsbD 3 = s.wdrop ∧ s.status.getLsbD 4 = s.treeValid ∧ s.status.getLsbD 5 = s.codesValid ∧
    s.status.getLsbD 6 = s.payloadValid ∧ s.status.getLsbD 7 = false := by
  simp only [State.status, BitVec.getLsbD_append, BitVec.getLsbD_ofBool]
  simp

theorem State.extractLsb'_status (s : State) :
    s.status.extractLsb' 8 8 = s.err.code ∧ s.status.extractLsb' 16 16 = 0#16 := by
  constructor
  · rw [State.status, BitVec.extractLsb'_append_eq_of_le (by decide)]
    exact BitVec.extractLsb'_append_eq_right
  · rw [State.status, BitVec.extractLsb'_append_eq_of_le (by decide)]
    exact BitVec.extractLsb'_append_eq_left

theorem State.busy_eq_decide (s : State) : s.busy = decide (s.phase = .busy) := by
  cases h : s.phase <;> simp [State.busy, h]

theorem State.error_eq_decide (s : State) : s.error = decide (s.err ≠ .none) := by
  cases h : s.err <;> simp [State.error, h]

/-- Settles O11: the fields of the STATUS word, and the code of each error. -/
theorem statusWordLayout : Obligations.StatusWordLayout := by
  unfold Obligations.StatusWordLayout
  intro s
  obtain ⟨hbusy, hdone, herror, hwdrop, htree, hcodes, hpay, hres⟩ := s.getLsbD_status
  obtain ⟨hcode, hhigh⟩ := s.extractLsb'_status
  refine ⟨hbusy.trans s.busy_eq_decide, hdone, herror.trans s.error_eq_decide, hwdrop, htree, hcodes, hpay, hres,
    hcode.trans ?_, hhigh⟩
  cases s.err <;> rfl

theorem extractLsb'_littleEndian (b : Nat → Byte) {n : Nat} (hn : n < 4) :
    (b 3 ++ b 2 ++ b 1 ++ b 0).extractLsb' (8 * n) 8 = b n := by
  match n, hn with
  | 0, _ => exact BitVec.extractLsb'_append_eq_right
  | 1, _ =>
    rw [BitVec.extractLsb'_append_eq_of_le (by decide)]
    exact BitVec.extractLsb'_append_eq_right
  | 2, _ =>
    rw [BitVec.extractLsb'_append_eq_of_le (by decide), BitVec.extractLsb'_append_eq_of_le (by decide)]
    exact BitVec.extractLsb'_append_eq_right
  | 3, _ =>
    rw [BitVec.extractLsb'_append_eq_of_le (by decide), BitVec.extractLsb'_append_eq_of_le (by decide)]
    exact BitVec.extractLsb'_append_eq_left

end Sys2Proof.Machine
end

section
/-! PROOFS. Everything a HOST access and a HOST turn can do (20_memory R85, R86, 30_encoding R117), each said once. -/

namespace Sys2Proof.Machine

/-- A read advances at most the count of draws (20_memory R94). -/
theorem State.memRead_state (s : State) (off : Word) : ∃ d, (s.memRead off).2 = { s with draws := d } := by
  unfold State.memRead
  split
  · exact ⟨s.draws + 1, rfl⟩
  · split
    · exact ⟨s.draws + 1, rfl⟩
    · exact ⟨s.draws, rfl⟩

/-- Settles O23: a read advances at most the count of draws. -/
theorem readsHaveNoSideEffect : Obligations.ReadsHaveNoSideEffect := by
  unfold Obligations.ReadsHaveNoSideEffect
  exact State.memRead_state

theorem State.hostRead_eq (s : State) (off : Word) :
    ∃ d, s.hostRead off = { s with rdata := (s.memRead off).1, draws := d } := by
  obtain ⟨d, hd⟩ := s.memRead_state off
  exact ⟨d, by rw [State.hostRead, hd]⟩

/-- A read does not look at the HOST's program. -/
theorem State.memRead_prog (s : State) (ops : List HostOp) (off : Word) :
    ({ s with prog := ops }.memRead off).1 = (s.memRead off).1 := by
  unfold State.memRead
  rw [show ({ s with prog := ops } : State).busy = s.busy from rfl]
  split
  · rfl
  · cases locate off with
    | reg r => cases r <;> rfl
    | _ => rfl

/-- Everything a HOST write can do: the three registers the sequencer answers, a dropped write, an accepted write to
IN_LEN, FREQ or IN_BUF, or nothing (20_memory R86 to R90). -/
theorem State.memWrite_cases (s : State) (off v : Word) :
    (locate off = .reg .status ∧ s.memWrite off v = s.acknowledge v) ∨
    (locate off = .reg .irqEn ∧ s.memWrite off v = s.writeIrqEn v) ∨
    (locate off = .reg .cmd ∧ s.memWrite off v = s.issue v) ∨
    (s.phase = .busy ∧ s.memWrite off v = s.dropWrite) ∨
    (s.phase = .idle ∧ locate off = .reg .inLen ∧ s.memWrite off v = s.writeInLen v) ∨
    (∃ b, s.phase = .idle ∧ locate off = .freq b ∧ s.memWrite off v = s.writeFreq b v) ∨
    (∃ i, s.phase = .idle ∧ locate off = .inBuf i ∧
      s.memWrite off v = { s with inBuf := s.inBuf.writeWord s.params.inCap i v }) ∨
    (s.phase = .idle ∧ locate off ≠ .reg .inLen ∧ (∀ b, locate off ≠ .freq b) ∧ (∀ i, locate off ≠ .inBuf i) ∧
      s.memWrite off v = s) := by
  by_cases hstatus : locate off = .reg .status
  · exact .inl ⟨hstatus, memWrite_status hstatus s v⟩
  by_cases hirq : locate off = .reg .irqEn
  · exact .inr (.inl ⟨hirq, by simp only [State.memWrite, hirq]⟩)
  by_cases hcmd : locate off = .reg .cmd
  · exact .inr (.inr (.inl ⟨hcmd, memWrite_cmd hcmd s v⟩))
  rw [memWrite_other hcmd hstatus hirq]
  cases hbusy : s.busy with
  | true => exact .inr (.inr (.inr (.inl ⟨State.busy_iff.1 hbusy, rfl⟩)))
  | false =>
    have hidle := State.busy_eq_false.1 hbusy
    cases hloc : locate off with
    | reg r => cases r <;> simp_all [State.acceptWrite]
    | _ => simp [State.acceptWrite, hidle]

/-- Everything a HOST turn can do: nothing left to do, a write, or a read, which changes only the model's own fields
(30_encoding R116, R117). -/
theorem State.hostTurn_cases (s : State) :
    s.hostTurn = s ∨
    (∃ off v ops, s.prog = .wr off v :: ops ∧ s.hostTurn = { s with prog := ops }.memWrite off v) ∨
    (∃ d ops x, s.hostTurn = { s with draws := d, prog := ops, rdata := x }) := by
  unfold State.hostTurn
  split <;> rename_i hprog
  · exact .inl rfl
  · exact .inr (.inl ⟨_, _, _, hprog, rfl⟩)
  · obtain ⟨d, hd⟩ := State.hostRead_eq { s with prog := _ } _
    exact .inr (.inr ⟨d, _, _, hd⟩)
  · obtain ⟨d, hd⟩ := State.hostRead_eq s Reg.status.offset
    rw [hd]
    dsimp only
    split
    · exact .inr (.inr ⟨d, s.prog, _, rfl⟩)
    · exact .inr (.inr ⟨d, _, _, rfl⟩)

/-- STATUS is in no result window, so a read of it gives the status word in either PHASE (20_memory R85). -/
theorem State.memRead_status (s : State) : s.memRead Reg.status.offset = (s.status, s) := by
  have hloc : locate Reg.status.offset = .reg .status := by decide +kernel
  simp [State.memRead, hloc, Loc.inResultSet, State.peek, State.readReg, State.showsFreeByte]

/-- Settles O22: `hostTurn` by the kind of the next operation. -/
theorem hostOperationsInProgramOrder : Obligations.HostOperationsInProgramOrder := by
  unfold Obligations.HostOperationsInProgramOrder
  intro s ops
  refine ⟨fun off v h => by simp only [State.hostTurn, h], fun off h => ?_, fun h => ⟨fun hbusy => ?_, fun hidle => ?_⟩⟩
  · obtain ⟨d, hd⟩ := State.hostRead_eq { s with prog := ops } off
    have hturn : s.hostTurn = { s with prog := ops, rdata := (s.memRead off).1, draws := d } := by
      rw [State.memRead_prog] at hd
      simp only [State.hostTurn, h, hd]
    exact ⟨by rw [hturn], by rw [hturn], d, hturn⟩
  · simp only [State.hostTurn, h, State.hostRead, State.memRead_status, s.getLsbD_status.1,
      State.busy_iff.2 hbusy, if_true]
  · simp only [State.hostTurn, h, State.hostRead, State.memRead_status, s.getLsbD_status.1,
      State.busy_eq_false.2 hidle, Bool.false_eq_true, if_false]

end Sys2Proof.Machine
end

section
/-! PROOFS. What a HOST access cannot do: disturb a pending command, or start one without a CMD write (70_reset R351,
R362). -/

namespace Sys2Proof.Machine

/-- Settles O5: while BUSY a write is an acknowledgement, an IRQ_EN write or dropped. -/
theorem hostCannotDisturbPendingCommand : Obligations.HostCannotDisturbPendingCommand := by
  unfold Obligations.HostCannotDisturbPendingCommand
  intro s hbusy
  rcases s.hostTurn_cases with h | ⟨off, v, ops, -, h⟩ | ⟨d, ops, x, h⟩
  · exact ⟨s.done, s.wdrop, s.doneIe, s.draws, s.prog, s.rdata, h⟩
  · rw [h]
    by_cases hstatus : locate off = .reg .status
    · exact ⟨_, _, s.doneIe, s.draws, ops, s.rdata, State.memWrite_status hstatus _ v⟩
    by_cases hirq : locate off = .reg .irqEn
    · exact ⟨s.done, s.wdrop, v.getLsbD 0, s.draws, ops, s.rdata, by simp only [State.memWrite, hirq, State.writeIrqEn]⟩
    · exact ⟨s.done, true, s.doneIe, s.draws, ops, s.rdata,
        State.memWrite_busy (s := { s with prog := ops }) hbusy hstatus hirq v⟩
  · exact ⟨s.done, s.wdrop, s.doneIe, d, ops, x, h⟩

/-- Settles O26: `writeFreq` is inv-all and the entry. -/
theorem freqWriteInvalidates : Obligations.FreqWriteInvalidates := by
  unfold Obligations.FreqWriteInvalidates
  intro s off v b hidle hloc
  refine ⟨Table.put s.freq b v, ?_, Table.at_put_same .., fun b' hb' => Table.at_put_other _ _ hb'⟩
  simp only [State.memWrite, hloc, State.busy_eq_false.2 hidle, Bool.false_eq_true, if_false]
  rfl

/-- Settles O27: the writes to IRQ_EN and IN_LEN, and the locations `memWrite` leaves out. -/
theorem otherWrites : Obligations.OtherWrites := by
  unfold Obligations.OtherWrites
  intro s off v
  refine ⟨fun h => by simp only [State.memWrite, h, State.writeIrqEn], fun hwf hidle h => ?_, ?_⟩
  · refine ⟨word (min v.toNat s.params.inCap), ?_, toNat_word (Nat.lt_of_le_of_lt (Nat.min_le_left ..) v.isLt)⟩
    simp only [State.memWrite, h, State.busy_eq_false.2 hidle, Bool.false_eq_true, if_false]
    rfl
  · intro hidle hstatus hirq hcmd hlen hfreq hbuf
    rcases s.memWrite_cases off v with ⟨h, _⟩ | ⟨h, _⟩ | ⟨h, _⟩ | ⟨h, _⟩ | ⟨_, h, _⟩ | ⟨b, _, h, _⟩ | ⟨i, _, h, _⟩ |
      ⟨_, _, _, _, h⟩
    · exact absurd h hstatus
    · exact absurd h hirq
    · exact absurd h hcmd
    · rw [hidle] at h; cases h
    · exact absurd h hlen
    · exact absurd h (hfreq b)
    · exact absurd h (hbuf i)
    · exact h

/-- From IDLE a write starts a command only at CMD, and the command is the word written. -/
theorem State.memWrite_busy_of_idle {s : State} {off v : Word} (hidle : s.phase = .idle)
    (hbusy : (s.memWrite off v).phase = .busy) : locate off = .reg .cmd ∧ (s.memWrite off v).pending = v := by
  rcases s.memWrite_cases off v with ⟨_, h⟩ | ⟨_, h⟩ | ⟨hcmd, h⟩ | ⟨h, _⟩ | ⟨_, _, h⟩ | ⟨_, _, _, h⟩ | ⟨_, _, _, h⟩ |
    ⟨_, _, _, _, h⟩
  case inr.inr.inl => exact ⟨hcmd, by rw [h, State.issue_idle hidle]⟩
  case inr.inr.inr.inl => rw [hidle] at h; cases h
  all_goals
    rw [h] at hbusy
    exact absurd (hidle.symm.trans hbusy) (by decide)

/-- A step from IDLE: a HOST turn, nothing, or RESET. -/
theorem step_cases_idle {s t : State} (h : step s = .next t) (hidle : s.phase = .idle) :
    ∃ ts, t = { s with sched := ts }.hostTurn ∨ t = { s with sched := ts } ∨
      (s.sched = .reset :: ts ∧ t = { s with sched := ts }.resetEvent) := by
  obtain ⟨ts, -, hstep⟩ := step_cases s
  refine ⟨ts, ?_⟩
  rcases hstep with e | e | ⟨hs, e⟩
  · exact .inl (Host.Outcome.next.inj (h.symm.trans e))
  · have hcore : ({ s with sched := ts } : State).coreTurn = .next { s with sched := ts } := by
      simp only [State.coreTurn, hidle]
    exact .inr (.inl (Host.Outcome.next.inj (h.symm.trans (e.trans hcore))))
  · exact .inr (.inr ⟨hs, Host.Outcome.next.inj (h.symm.trans e)⟩)

/-- Settles O6: from IDLE only a HOST write can give BUSY, and only one to CMD does. -/
theorem onlyCmdWriteStartsWork : Obligations.OnlyCmdWriteStartsWork := by
  unfold Obligations.OnlyCmdWriteStartsWork
  intro s t hstep hidle hbusy
  obtain ⟨ts, rfl | rfl | ⟨-, rfl⟩⟩ := step_cases_idle hstep hidle
  · rcases State.hostTurn_cases { s with sched := ts } with h | ⟨off, v, ops, hprog, h⟩ | ⟨d, ops, x, h⟩
    · rw [h] at hbusy; exact absurd (hidle.symm.trans hbusy) (by decide)
    · rw [h] at hbusy ⊢
      obtain ⟨hcmd, hpend⟩ := State.memWrite_busy_of_idle (by exact hidle) hbusy
      exact ⟨off, v, ops, hprog, hcmd, hpend⟩
    · rw [h] at hbusy; exact absurd (hidle.symm.trans hbusy) (by decide)
  · exact absurd (hidle.symm.trans hbusy) (by decide)
  · cases hbusy

/-- A write leaves the error report, or issues a command, which clears it (60_exceptions R307). -/
theorem State.memWrite_errorReport {s : State} (off v : Word) :
    ((s.memWrite off v).err = s.err ∧ (s.memWrite off v).errInfo = s.errInfo) ∨
    (locate off = .reg .cmd ∧ (s.memWrite off v).err = .none ∧ (s.memWrite off v).errInfo = 0#32) := by
  rcases s.memWrite_cases off v with ⟨_, h⟩ | ⟨_, h⟩ | ⟨hcmd, h⟩ | ⟨_, h⟩ | ⟨_, _, h⟩ | ⟨_, _, _, h⟩ | ⟨_, _, _, h⟩ |
    ⟨_, _, _, _, h⟩
  case inr.inr.inl =>
    cases hphase : s.phase with
    | idle => exact .inr ⟨hcmd, by rw [h, State.issue_idle hphase]; exact ⟨rfl, rfl⟩⟩
    | busy => exact .inl (by rw [h, State.issue_busy hphase]; exact ⟨rfl, rfl⟩)
  all_goals exact .inl (by rw [h]; exact ⟨rfl, rfl⟩)

/-- Settles O15: from IDLE only an issue or RESET touches the error report. -/
theorem errorReportStaysUntilIssue : Obligations.ErrorReportStaysUntilIssue := by
  unfold Obligations.ErrorReportStaysUntilIssue
  intro s t hstep hidle
  obtain ⟨ts, rfl | rfl | ⟨hs, rfl⟩⟩ := step_cases_idle hstep hidle
  · rcases State.hostTurn_cases { s with sched := ts } with h | ⟨off, v, ops, hprog, h⟩ | ⟨d, ops, x, h⟩
    · exact .inl (by rw [h]; exact ⟨rfl, rfl⟩)
    · rw [h]
      rcases State.memWrite_errorReport (s := { s with sched := ts, prog := ops }) off v with hkept | ⟨hcmd, hcleared⟩
      · exact .inl hkept
      · exact .inr (.inl ⟨off, v, ops, hprog, hcmd, hcleared⟩)
    · exact .inl (by rw [h]; exact ⟨rfl, rfl⟩)
  · exact .inl ⟨rfl, rfl⟩
  · exact .inr (.inr ⟨ts, hs⟩)

end Sys2Proof.Machine
end

section
/-! PROOFS. The words of a buffer (20_memory R83, R84). -/

namespace Sys2Proof.Machine

/-- Byte `n` of a word read inside the capacity. -/
theorem Memory.extractLsb'_readWord {m : Memory} {cap i n : Nat} (hi : i < cap) (hn : n < 4) :
    (m.readWord cap i).extractLsb' (8 * n) 8 = m.read (i + n) := by
  rw [Memory.readWord, if_pos hi]
  exact extractLsb'_littleEndian (fun k => m.read (i + k)) hn

theorem Memory.extractLsb'_shownWord {m : Memory} {cap len seed i n : Nat} (hi : i < cap) (hn : n < 4) :
    (m.shownWord cap len seed i).extractLsb' (8 * n) 8 = m.shownByte len seed (i + n) := by
  rw [Memory.shownWord, if_pos hi]
  exact extractLsb'_littleEndian (fun k => m.shownByte len seed (i + k)) hn

theorem Memory.readWord_beyond {m : Memory} {cap i : Nat} (h : cap ≤ i) : m.readWord cap i = 0#32 :=
  if_neg (by omega)

theorem Memory.writeWord_beyond {m : Memory} {cap i : Nat} (h : cap ≤ i) (v : Word) : m.writeWord cap i v = m :=
  if_neg (by omega)

/-- Byte `n` of a word written inside the capacity. -/
theorem Memory.read_writeWord_inside {m : Memory} {cap i n : Nat} (hi : i < cap) (hn : n < 4) (v : Word) :
    (m.writeWord cap i v).read (i + n) = v.extractLsb' (8 * n) 8 := by
  rw [Memory.writeWord, if_pos hi]
  match n, hn with
  | 0, _ =>
    rw [read_write_other _ _ (by omega), read_write_other _ _ (by omega), read_write_other _ _ (by omega)]
    exact read_write_same ..
  | 1, _ =>
    rw [read_write_other _ _ (by omega), read_write_other _ _ (by omega)]
    exact read_write_same ..
  | 2, _ =>
    rw [read_write_other _ _ (by omega)]
    exact read_write_same ..
  | 3, _ => exact read_write_same ..

theorem Memory.read_writeWord_outside {m : Memory} {cap i a : Nat} (ha : a < i ∨ i + 4 ≤ a) (v : Word) :
    (m.writeWord cap i v).read a = m.read a := by
  rw [Memory.writeWord]
  split
  · rw [read_write_other _ _ (by omega), read_write_other _ _ (by omega), read_write_other _ _ (by omega),
      read_write_other _ _ (by omega)]
  · rfl

/-- Settles O21: the bytes of the words read and written. -/
theorem bufferWordsAreLittleEndian : Obligations.BufferWordsAreLittleEndian := by
  unfold Obligations.BufferWordsAreLittleEndian
  intro m cap i v
  exact ⟨fun hi n hn => ⟨Memory.extractLsb'_readWord hi hn, Memory.read_writeWord_inside hi hn v⟩,
    fun a ha => Memory.read_writeWord_outside ha v,
    fun h => ⟨Memory.readWord_beyond h, Memory.writeWord_beyond h v⟩⟩

/-- A word is its four bytes. -/
theorem word_ext {v w : Word} (h : ∀ n, n < 4 → v.extractLsb' (8 * n) 8 = w.extractLsb' (8 * n) 8) : v = w := by
  apply BitVec.eq_of_getLsbD_eq
  intro j hj
  have hbyte := congrArg (fun x => BitVec.getLsbD x (j % 8)) (h (j / 8) (by omega))
  have hmod : j % 8 < 8 := Nat.mod_lt _ (by decide)
  simpa only [BitVec.getLsbD_extractLsb', hmod, decide_true, Bool.true_and, Nat.div_add_mod] using hbyte

theorem Memory.readWord_writeWord {m : Memory} {cap i : Nat} (hi : i < cap) (v : Word) :
    (m.writeWord cap i v).readWord cap i = v :=
  word_ext fun n hn => by rw [extractLsb'_readWord hi hn, read_writeWord_inside hi hn]

end Sys2Proof.Machine
end

section
/-! PROOFS. The address map (20_memory R82): which location each offset is, with any ignored bits `l`. -/

namespace Sys2Proof.Machine

variable {off : Word} {l : Nat}

theorem locate_reg (hl : l < 4) {r : Reg} (h : off.toNat = r.offset.toNat + l) : locate off = .reg r := by
  have ha : off.toNat / 4 * 4 = r.offset.toNat := by
    have hr : r.offset.toNat % 4 = 0 := by cases r <;> rfl
    omega
  simp only [locate, ha]
  cases r <;> rfl

theorem locate_reserved (hlo : 0x48 ≤ off.toNat) (hhi : off.toNat < 0x100) : locate off = .reserved := by
  have hnone : regs[off.toNat / 4 * 4 / 4]? = none := List.getElem?_eq_none (by simp [regs]; omega)
  simp (disch := omega) only [locate, if_pos, hnone]

theorem locate_freq (hl : l < 4) {b : Byte} (h : off.toNat = 0x400 + 4 * b.toNat + l) : locate off = .freq b := by
  have hb := b.isLt
  have hi : (off.toNat / 4 * 4 - 0x400) / 4 = b.toNat := by omega
  simp (disch := omega) only [locate, if_neg, if_pos, hi, BitVec.ofNat_toNat, BitVec.setWidth_eq]

theorem locate_codeLen (hl : l < 4) {b : Byte} (h : off.toNat = 0x800 + 4 * b.toNat + l) :
    locate off = .codeLen b := by
  have hb := b.isLt
  have hi : (off.toNat / 4 * 4 - 0x800) / 4 = b.toNat := by omega
  simp (disch := omega) only [locate, if_neg, if_pos, hi, BitVec.ofNat_toNat, BitVec.setWidth_eq]

theorem locate_codeBits (hl : l < 4) {b : Byte} {k : Nat} (hk : k < 8)
    (h : off.toNat = 0x1000 + 32 * b.toNat + 4 * k + l) : locate off = .codeBits b k := by
  have hb := b.isLt
  have hi : (off.toNat / 4 * 4 - 0x1000) / 32 = b.toNat := by omega
  have hj : (off.toNat / 4 * 4 - 0x1000) % 32 / 4 = k := by omega
  simp (disch := omega) only [locate, if_neg, if_pos, hi, hj, BitVec.ofNat_toNat, BitVec.setWidth_eq]

theorem locate_tree (hl : l < 4) {j : Nat} (hj : j < 512) (second : Bool)
    (h : off.toNat = 0x4000 + 8 * j + (if second then 4 else 0) + l) : locate off = .tree j second := by
  cases second <;> simp only [Bool.false_eq_true, if_false, if_true] at h
  · have hi : (off.toNat / 4 * 4 - 0x4000) / 8 = j := by omega
    have hw : ¬ (off.toNat / 4 * 4 - 0x4000) % 8 = 4 := by omega
    simp (disch := omega) only [locate, if_neg, if_pos, hi, hw, decide_false]
  · have hi : (off.toNat / 4 * 4 - 0x4000) / 8 = j := by omega
    have hw : (off.toNat / 4 * 4 - 0x4000) % 8 = 4 := by omega
    simp (disch := omega) only [locate, if_neg, if_pos, hi, hw, decide_true]

theorem locate_inBuf (hl : l < 4) {k : Nat} (hk : k < 262144) (h : off.toNat = 0x100000 + 4 * k + l) :
    locate off = .inBuf (4 * k) := by
  have hi : off.toNat / 4 * 4 - 0x100000 = 4 * k := by omega
  simp (disch := omega) only [locate, if_neg, if_pos, hi]

theorem locate_outBuf (hl : l < 4) {k : Nat} (hk : k < 262144) (h : off.toNat = 0x200000 + 4 * k + l) :
    locate off = .outBuf (4 * k) := by
  have hi : off.toNat / 4 * 4 - 0x200000 = 4 * k := by omega
  simp (disch := omega) only [locate, if_neg, if_pos, hi]

theorem locate_payload (hl : l < 4) {k : Nat} (hk : k < 262144) (h : off.toNat = 0x300000 + 4 * k + l) :
    locate off = .payload (4 * k) := by
  have hi : off.toNat / 4 * 4 - 0x300000 = 4 * k := by omega
  simp (disch := omega) only [locate, if_neg, if_pos, hi]

theorem locate_unmapped (h : (0x100 ≤ off.toNat ∧ off.toNat < 0x400) ∨ (0xC00 ≤ off.toNat ∧ off.toNat < 0x1000) ∨
    (0x3000 ≤ off.toNat ∧ off.toNat < 0x4000) ∨ (0x5000 ≤ off.toNat ∧ off.toNat < 0x100000) ∨
    0x400000 ≤ off.toNat) : locate off = .unmapped := by
  rcases h with h | h | h | h | h <;> simp (disch := omega) only [locate, if_neg, if_pos]

end Sys2Proof.Machine
end

section
/-! PROOFS. What a read gives while IDLE, location by location (20_memory R82 to R85, 70_reset R353). -/

namespace Sys2Proof.Machine

variable {s : State} {off : Word}

theorem State.memRead_idle (h : s.phase = .idle) : (s.memRead off).1 = s.peek (locate off) := by
  simp [State.memRead, State.busy_eq_false.2 h]

theorem State.readReg_of_numeric_offset {p : Nat × Word} (hp : p ∈ [(0x000, 0x48554646#32), (0x004, 0x00000001#32),
      (0x008, 0#32), (0x00C, s.status), (0x010, if s.doneIe then 1#32 else 0#32), (0x014, s.inLen),
      (0x018, s.outLen), (0x01C, s.payLen), (0x020, s.pad), (0x024, s.bitLen), (0x028, s.symCount), (0x02C, s.total),
      (0x030, BitVec.ofNat 32 s.treeRoot.val), (0x034, s.maxCodeLen), (0x038, s.errInfo),
      (0x03C, BitVec.ofNat 32 s.params.inCap), (0x040, BitVec.ofNat 32 s.params.outCap),
      (0x044, BitVec.ofNat 32 s.params.payCap)]) : ∃ r : Reg, p = (r.offset.toNat, s.readReg r) := by
  have hirq : s.irqEn = if s.doneIe then 1#32 else 0#32 := by cases h : s.doneIe <;> simp [State.irqEn, h]
  simp only [List.mem_cons, List.not_mem_nil, or_false] at hp
  rcases hp with rfl | rfl | rfl | rfl | rfl | rfl | rfl | rfl | rfl | rfl | rfl | rfl | rfl | rfl | rfl | rfl |
    rfl | rfl
  · exact ⟨.id, rfl⟩
  · exact ⟨.version, rfl⟩
  · exact ⟨.cmd, rfl⟩
  · exact ⟨.status, rfl⟩
  · exact ⟨.irqEn, Prod.ext rfl hirq.symm⟩
  · exact ⟨.inLen, rfl⟩
  · exact ⟨.outLen, rfl⟩
  · exact ⟨.payLen, rfl⟩
  · exact ⟨.pad, rfl⟩
  · exact ⟨.bitLen, rfl⟩
  · exact ⟨.symCount, rfl⟩
  · exact ⟨.total, rfl⟩
  · exact ⟨.treeRoot, rfl⟩
  · exact ⟨.maxCodeLen, rfl⟩
  · exact ⟨.errInfo, rfl⟩
  · exact ⟨.inCapReg, rfl⟩
  · exact ⟨.outCapReg, rfl⟩
  · exact ⟨.payCapReg, rfl⟩

theorem State.peek_tree_node (j : NodeIdx) (second : Bool) :
    s.peek (.tree j.val second) = if second then s.node[j].word1 else s.node[j].word0 := by
  simp [State.peek, j.isLt]

theorem State.peek_tree_beyond {j : Nat} (h : 511 ≤ j) (second : Bool) : s.peek (.tree j second) = 0#32 := by
  simp [State.peek, Nat.not_lt.2 h]

/-- The bytes of the words of OUT_BUF and PAYLOAD, a free value at or past the length. -/
theorem Memory.shownWord_bytes (m : Memory) (cap len seed k : Nat) :
    (cap ≤ 4 * k → m.shownWord cap len seed (4 * k) = 0#32) ∧
    (4 * k < cap → ∀ n, n < 4 → (m.shownWord cap len seed (4 * k)).extractLsb' (8 * n) 8 =
      if 4 * k + n < len then m.read (4 * k + n) else Config.freeByte seed (4 * k + n)) :=
  ⟨Memory.shownWord_beyond, fun hi _ hn => Memory.extractLsb'_shownWord hi hn⟩

theorem codeLen_word (b : BitVec 8) : 0#24 ++ b = b.zeroExtend 32 := by
  have hb := b.isLt
  apply BitVec.eq_of_toNat_eq
  simp only [BitVec.toNat_append, BitVec.toNat_zero, Nat.zero_shiftLeft, Nat.zero_or, BitVec.truncate_eq_setWidth,
    BitVec.toNat_setWidth]
  omega

/-- Settles O20: each offset's location, and what is peeked there. -/
theorem idleReadsFollowTheMap : Obligations.IdleReadsFollowTheMap := by
  unfold Obligations.IdleReadsFollowTheMap
  intro s off l hidle hl
  rw [State.memRead_idle hidle]
  have hreg (r : Reg) (h : off.toNat = r.offset.toNat + l) : s.peek (locate off) = s.readReg r := by
    rw [locate_reg hl h]; rfl
  refine ⟨hreg, fun p hp h => ?_, fun hlo hhi => ?_, fun b h => ?_, fun b h => ?_, fun b k hk h => ?_, fun j h => ?_,
    fun j h => ?_, fun hlo hhi => ?_, fun k hk h => ?_, fun k hk h => ?_, fun k hk h => ?_, fun h => ?_⟩
  · obtain ⟨r, rfl⟩ := State.readReg_of_numeric_offset hp
    exact hreg r h
  · rw [locate_reserved hlo hhi]; rfl
  · rw [locate_freq hl h]; rfl
  · rw [locate_codeLen hl h]; exact codeLen_word _
  · rw [locate_codeBits hl hk h]; rfl
  · rw [locate_tree hl (by omega) false h, State.peek_tree_node]; rfl
  · rw [locate_tree hl (by omega) true h, State.peek_tree_node]; rfl
  · obtain ⟨second, l', hl', h⟩ : ∃ (second : Bool) (l' : Nat), l' < 4 ∧
        off.toNat = 0x4000 + 8 * 511 + (if second then 4 else 0) + l' := by
      by_cases hw : off.toNat < 0x4FFC
      · exact ⟨false, off.toNat - 0x4FF8, by omega, by simp; omega⟩
      · exact ⟨true, off.toNat - 0x4FFC, by omega, by simp; omega⟩
    rw [locate_tree hl' (by decide) second h, State.peek_tree_beyond (by decide)]
  · rw [locate_inBuf hl hk h]; rfl
  · rw [locate_outBuf hl hk h]; exact Memory.shownWord_bytes ..
  · rw [locate_payload hl hk h]; exact Memory.shownWord_bytes ..
  · rw [locate_unmapped h]; rfl

/-- Settles O25: the write of a word inside the capacity, byte by byte, and of one beyond it. -/
theorem inBufWriteIsLittleEndian : Obligations.InBufWriteIsLittleEndian := by
  unfold Obligations.InBufWriteIsLittleEndian
  intro s off v k l hidle hl hk hoff
  have hloc := locate_inBuf hl hk hoff
  have hwrite : s.memWrite off v = { s with inBuf := s.inBuf.writeWord s.params.inCap (4 * k) v } := by
    simp only [State.memWrite, hloc, State.busy_eq_false.2 hidle, Bool.false_eq_true, if_false]
    rfl
  refine ⟨fun hin => ⟨_, hwrite, ?_, ?_, ?_, ?_, fun a ha => Memory.read_writeWord_outside ha v, ?_⟩,
    fun hout => ⟨?_, ?_⟩⟩
  · exact Memory.read_writeWord_inside hin (n := 0) (by decide) v
  · exact Memory.read_writeWord_inside hin (n := 1) (by decide) v
  · exact Memory.read_writeWord_inside hin (n := 2) (by decide) v
  · exact Memory.read_writeWord_inside hin (n := 3) (by decide) v
  · rw [hwrite, State.memRead_idle (by exact hidle), hloc]
    exact Memory.readWord_writeWord hin v
  · rw [hwrite, Memory.writeWord_beyond hout]
  · rw [State.memRead_idle hidle, hloc]
    exact Memory.readWord_beyond hout

/-- The fields of word 0 of an internal node (10_state R50). -/
theorem Node.word0_internal (f : Word) (l r : NodeIdx) :
    (Node.internal f l r).word0.getLsbD 31 = true ∧ (Node.internal f l r).word0.extractLsb' 25 6 = 0#6 ∧
    ((Node.internal f l r).word0.extractLsb' 16 9).toNat = r.val ∧
    (Node.internal f l r).word0.extractLsb' 9 7 = 0#7 ∧
    ((Node.internal f l r).word0.extractLsb' 0 9).toNat = l.val := by
  have hnine (k : NodeIdx) : (BitVec.ofNat 9 k.val).toNat = k.val :=
    Nat.mod_eq_of_lt (Nat.lt_of_lt_of_le k.isLt (by decide))
  refine ⟨?kind, ?high, ?right, ?low, ?left⟩
  case kind => simp only [Node.word0, BitVec.getLsbD_append]; simp
  case high =>
    rw [Node.word0, BitVec.extractLsb'_append_eq_of_le (by decide), BitVec.extractLsb'_append_eq_of_le (by decide),
      BitVec.extractLsb'_append_eq_of_le (by decide)]
    exact BitVec.extractLsb'_append_eq_right
  case right =>
    rw [Node.word0, BitVec.extractLsb'_append_eq_of_le (by decide), BitVec.extractLsb'_append_eq_of_le (by decide)]
    exact (congrArg BitVec.toNat BitVec.extractLsb'_append_eq_right).trans (hnine r)
  case low =>
    rw [Node.word0, BitVec.extractLsb'_append_eq_of_le (by decide)]
    exact BitVec.extractLsb'_append_eq_right
  case left => exact (congrArg BitVec.toNat BitVec.extractLsb'_append_eq_right).trans (hnine l)

/-- Settles O60: the two words of an entry, leaf or internal. -/
theorem treeWindowShowsNodes : Obligations.TreeWindowShowsNodes := by
  unfold Obligations.TreeWindowShowsNodes
  intro s off j hidle
  rw [State.memRead_idle hidle]
  refine ⟨fun hoff => ?_, fun hoff => ?_⟩
  · have hpeek : s.peek (locate off) = s.node[j].word0 := by
      rw [locate_tree (l := 0) (j := j.val) (by decide) (by omega) false (by simpa using hoff),
        State.peek_tree_node]
      rfl
    rw [hpeek]
    exact ⟨fun b f h => by rw [h]; exact codeLen_word b, fun f l r h => by rw [h]; exact Node.word0_internal f l r⟩
  · have hpeek : s.peek (locate off) = s.node[j].word1 := by
      rw [locate_tree (l := 0) (j := j.val) (by decide) (by omega) true (by simpa using hoff),
        State.peek_tree_node]
      rfl
    rw [hpeek]
    exact ⟨fun b f h => by rw [h]; rfl, fun f l r h => by rw [h]; rfl⟩

end Sys2Proof.Machine
end

section
/-! PROOFS. Reads while BUSY (20_memory R85): which words are in RESULT_SET, and that the others read as while IDLE. -/

namespace Sys2Proof.Machine

theorem locate_of_register_word {off : Word} {k : Nat} (h : off.toNat / 4 * 4 = 4 * k) (hk : k < 18) :
    locate off = .reg (regs[k]'hk) := by
  have hi : off.toNat / 4 * 4 / 4 = k := by omega
  have hlt : off.toNat / 4 * 4 < 0x100 := by omega
  simp only [locate, if_pos hlt, hi, List.getElem?_eq_getElem (show k < regs.length from hk)]
  rfl

theorem inResultSet_of_range {off : Word} {a : Nat} (ha : a = off.toNat / 4 * 4)
    (h : (0x018 ≤ a ∧ a ≤ 0x038) ∨ (0x400 ≤ a ∧ a < 0xC00) ∨ (0x1000 ≤ a ∧ a < 0x3000) ∨
      (0x4000 ≤ a ∧ a < 0x5000) ∨ (0x200000 ≤ a ∧ a < 0x400000)) : (locate off).inResultSet = true := by
  rcases h with h | h | h | h | h
  · have hres : ∀ k : Fin 18, 6 ≤ k.val → k.val ≤ 14 → (Loc.reg regs[k.val]).inResultSet = true := by decide
    have hk : a / 4 < 18 := by omega
    rw [locate_of_register_word (k := a / 4) (by omega) hk]
    exact hres ⟨a / 4, hk⟩ (by simp only; omega) (by simp only; omega)
  · by_cases hlen : a < 0x800 <;> simp (disch := omega) only [locate, if_neg, if_pos, Loc.inResultSet]
  · simp (disch := omega) only [locate, if_neg, if_pos, Loc.inResultSet]
  · simp (disch := omega) only [locate, if_neg, if_pos, Loc.inResultSet]
  · by_cases hout : a < 0x300000 <;> simp (disch := omega) only [locate, if_neg, if_pos, Loc.inResultSet]

section OutsideResults

variable {off : Word} {a : Nat} (ha : a = off.toNat / 4 * 4)
  (h : a < 0x018 ∨ (0x03C ≤ a ∧ a < 0x400) ∨ (0xC00 ≤ a ∧ a < 0x1000) ∨ (0x3000 ≤ a ∧ a < 0x4000) ∨
    (0x5000 ≤ a ∧ a < 0x200000) ∨ 0x400000 ≤ a)

include ha h

/-- The words outside RESULT_SET: registers the HOST writes or that are hard-wired, reserved words, IN_BUF, and the
gaps of the map. -/
theorem locate_outside_results :
    (∃ k : Fin 18, a = 4 * k.val ∧ (k.val < 6 ∨ 15 ≤ k.val) ∧ locate off = .reg regs[k.val]) ∨
    locate off = .reserved ∨ (∃ i, locate off = .inBuf i) ∨ locate off = .unmapped := by
  by_cases hreg : a < 0x48
  · have hk : a / 4 < 18 := by omega
    exact .inl ⟨⟨a / 4, hk⟩, by simp only; omega, by simp only; omega, locate_of_register_word (by omega) hk⟩
  by_cases hrsvd : a < 0x100
  · exact .inr (.inl (locate_reserved (by omega) (by omega)))
  by_cases hbuf : 0x100000 ≤ a ∧ a < 0x200000
  · exact .inr (.inr (.inl ⟨_, locate_inBuf (l := off.toNat % 4) (k := (a - 0x100000) / 4) (by omega) (by omega)
      (by omega)⟩))
  · exact .inr (.inr (.inr (locate_unmapped (by omega))))

theorem not_inResultSet_of_range : (locate off).inResultSet = false := by
  rcases locate_outside_results ha h with ⟨k, _, hk, hloc⟩ | hloc | ⟨i, hloc⟩ | hloc <;> rw [hloc]
  · have hres : ∀ k : Fin 18, k.val < 6 ∨ 15 ≤ k.val → (Loc.reg regs[k.val]).inResultSet = false := by decide
    exact hres k hk
  all_goals rfl

/-- Outside RESULT_SET, STATUS is the word at 0x00C only. -/
theorem eq_of_locate_status (hstatus : locate off = .reg .status) : a = 0x00C := by
  rcases locate_outside_results ha h with ⟨k, hak, _, hloc⟩ | hloc | ⟨i, hloc⟩ | hloc <;> rw [hloc] at hstatus
  · have honly : ∀ k : Fin 18, regs[k.val] = .status → k.val = 3 := by decide
    rw [hak, honly k (Loc.reg.inj hstatus)]
  all_goals cases hstatus

end OutsideResults

theorem Loc.showsFreeByte_of_not_result {l : Loc} (h : l.inResultSet = false) (s : State) :
    s.showsFreeByte l = false := by
  cases l with
  | outBuf i => cases h
  | payload i => cases h
  | _ => rfl

/-- Outside RESULT_SET only STATUS shows the PHASE. -/
theorem Loc.peek_phase {l : Loc} (h : l ≠ .reg .status) (s : State) (p : Phase) :
    { s with phase := p }.peek l = s.peek l := by
  cases l with
  | reg r =>
    cases r with
    | status => exact absurd rfl h
    | _ => rfl
  | _ => rfl

/-- Settles O59: the words of RESULT_SET, and the reads outside it. -/
theorem busyReadsHideResults : Obligations.BusyReadsHideResults := by
  unfold Obligations.BusyReadsHideResults
  intro s off a hbusy ha
  refine ⟨fun h => ?_, fun h => ?_⟩
  · simp only [State.memRead, State.busy_iff.2 hbusy, inResultSet_of_range ha h, Bool.and_self, if_true]
    rfl
  · have hres := not_inResultSet_of_range ha h
    have hread : s.memRead off = (s.peek (locate off), s) := by
      simp [State.memRead, hres, Loc.showsFreeByte_of_not_result hres]
    rw [hread]
    refine ⟨rfl, fun hstatus => ?_, fun hother => ?_⟩
    · rw [locate_of_register_word (k := 3) (by omega) (by decide)]; rfl
    · have hne : locate off ≠ .reg .status := fun hs => hother (eq_of_locate_status ha h hs)
      rw [State.memRead_idle rfl]
      exact (Loc.peek_phase hne s .idle).symm

end Sys2Proof.Machine
end

section
/-! PROOFS. The step's simplest cases: RESET, a run that is over, a CORE turn, NOP, a missing valid bit (70_reset R350,
R369, 10_state R36, 43_control R230, 60_exceptions R305). -/

namespace Sys2Proof.Machine

/-- Every bit of the STATUS word is 0 after reset. -/
theorem State.status_resetWith (p : Params) (d : Nat) : (State.resetWith p d).status = 0#32 := by
  show 0#16 ++ 0#8 ++ (0#1 ++ 0#1 ++ 0#1 ++ 0#1 ++ 0#1 ++ 0#1 ++ 0#1 ++ 0#1) = 0#32
  decide

theorem State.resetWith_atReset (p : Params) (d : Nat) : (State.resetWith p d).AtReset := by
  refine ⟨rfl, rfl, rfl, State.status_resetWith p d, (by decide : 0#31 ++ BitVec.ofBool false = 0#32),
    rfl, rfl, rfl, rfl, rfl, rfl, rfl, rfl, rfl, rfl, rfl, rfl,
    rfl, fun b => ⟨?freq, ?codeLen, ?codeBits⟩, fun j => ?node, rfl, rfl, rfl, rfl⟩
  case freq => exact Table.at_const 0#32 b
  case codeLen => exact Table.at_const 0#8 b
  case codeBits => exact Table.at_const 0#256 b
  case node =>
    show Arena.unused[j].word0 = 0#32 ∧ Arena.unused[j].word1 = 0#32
    rw [getElem_unused]
    exact words_unused

/-- Settles O1: the fields of `resetWith`, which a RESET turn writes too. -/
theorem resetGivesStatedValues : Obligations.ResetGivesStatedValues := by
  unfold Obligations.ResetGivesStatedValues
  refine ⟨⟨State.resetWith_atReset _ _, rfl, rfl, rfl⟩, fun s ts hs => ?_⟩
  have hstep : step s = .next { s with sched := ts }.resetEvent :=
    step_eq (t := .reset) (by simp only [State.nextTurn, hs])
  exact ⟨_, hstep, State.resetWith_atReset s.params s.draws, rfl, rfl, rfl, rfl⟩

/-- Settles O8: the turn is the HOST's, which has no operation left. -/
theorem finishedRunStays : Obligations.FinishedRunStays := by
  unfold Obligations.FinishedRunStays
  rintro s ⟨hprog, hidle⟩ hsched
  have hturn : s.nextTurn = (.host, []) := by simp only [State.nextTurn, hsched, hidle]
  rw [step_eq hturn]
  rw [← hsched]
  simp only [State.take, State.hostTurn, hprog]
  rw [← hprog]

/-- A CORE turn is next while BUSY, by the schedule or because it is empty. -/
theorem step_core {s : State} {ts : List Turn} (hbusy : s.phase = .busy)
    (hsched : s.sched = .core :: ts ∨ (s.sched = [] ∧ ts = [])) : step s = { s with sched := ts }.coreTurn := by
  refine step_eq (t := .core) ?_
  rcases hsched with h | ⟨h, rfl⟩
  · simp only [State.nextTurn, h]
  · simp only [State.nextTurn, h, hbusy]

/-- Settles O3: the turn is CORE's, which executes the decoded word. -/
theorem stepRunsTheDecodedCommand : Obligations.StepRunsTheDecodedCommand := by
  unfold Obligations.StepRunsTheDecodedCommand
  intro s ts hbusy hsched
  rw [step_core hbusy hsched]
  refine ⟨fun i hdec => ?_, fun e hdec => ?_⟩
  · simp only [State.coreTurn, hbusy, hdec]
  · simp only [State.coreTurn, hbusy, hdec]
    rfl

/-- Settles O42: NOP's body does nothing, and it completes. -/
theorem nopOnlyCompletes : Obligations.NopOnlyCompletes := by
  unfold Obligations.NopOnlyCompletes
  intro s
  rfl

/-- Settles O47: each body tests its valid bits first. -/
theorem missingPrerequisiteIsSequence : Obligations.MissingPrerequisiteIsSequence := by
  unfold Obligations.MissingPrerequisiteIsSequence
  intro s
  refine ⟨fun h => ?_, fun h => ?_, fun h => ?_, fun h => ?_⟩
  · simp only [exec, execGenCodes, genCodesBody, if_pos h]; rfl
  · simp only [exec, execPack, packBody, if_pos h]; rfl
  · simp only [exec, execSerialize, serializeBody, if_pos h]; rfl
  · have hmissing : s.walkMissing ≠ 0#32 := fun h0 => by
      obtain ⟨ht, hp⟩ := State.walkMissing_eq_zero.1 h0
      simp [ht, hp] at h
    have hbits : s.walkMissing = if s.treeValid then 0x40#32 else if s.payloadValid then 0x10#32 else 0x50#32 := by
      revert h
      cases ht : s.treeValid <;> cases hp : s.payloadValid <;>
        simp [State.walkMissing, ht, hp, treeBit, payloadBit]
    simp only [exec, execWalk, walkBody, if_pos hmissing, ← hbits]
    rfl

end Sys2Proof.Machine
end

section
/-! PROOFS. Reasoning about a command through its body: what a body ensures when it runs to its end and when it raises,
rule by rule, and the frame every body keeps (41_encode, 42_decode, 43_control). -/

namespace Sys2Proof.Machine

/-- The body of each command: its pseudocode up to its completion. -/
def bodyOf : Instr → State → Effect
  | .nop => .done
  | .clear => fun s => .done s.clearDatapath
  | .analyze => analyzeBody
  | .buildTree => buildTreeBody
  | .genCodes => genCodesBody
  | .pack => packBody
  | .serialize => serializeBody
  | .encode => encodeBody
  | .parse => parseBody
  | .walk => walkBody
  | .decode => decodeBody

theorem exec_eq_outcome (i : Instr) (s : State) : exec i s = (bodyOf i s).outcome := by
  cases i <;> rfl

/-- The effect meets `P` if it runs to its end, `Q` with the error and its detail if it raises, and faults only if `R`.
-/
def Effect.Ensures (e : Effect) (R : Prop) (P : State → Prop) (Q : State → ErrCode → Word → Prop) : Prop :=
  match e with
  | .done t => P t
  | .raised t er v => Q t er v
  | .fault _ => R

theorem Effect.Ensures.andThen {e : Effect} {R : Prop} {k : State → Effect} {P P' : State → Prop}
    {Q : State → ErrCode → Word → Prop} (he : e.Ensures R P Q) (hk : ∀ t, P t → (k t).Ensures R P' Q) :
    (e.andThen k).Ensures R P' Q := by
  cases e with
  | done t => exact hk t he
  | raised t er v => exact he
  | fault f => exact he

theorem Effect.Ensures.mono {e : Effect} {R : Prop} {P P' : State → Prop} {Q Q' : State → ErrCode → Word → Prop}
    (he : e.Ensures R P Q) (hP : ∀ t, P t → P' t) (hQ : ∀ t er v, Q t er v → Q' t er v) : e.Ensures R P' Q' := by
  cases e with
  | done t => exact hP t he
  | raised t er v => exact hQ t er v he
  | fault f => exact he

/-- What a body ensures, of the state its command completes with. -/
theorem Effect.Ensures.outcome {e : Effect} {R : Prop} {P : State → Prop} {Q : State → ErrCode → Word → Prop}
    {t : State} (he : e.Ensures R P Q) (h : e.outcome = .next t) :
    (∃ u, P u ∧ t = u.succeed.complete) ∨ (∃ u er v, Q u er v ∧ t = (u.raise er v).complete) := by
  rcases Effect.outcome_next.1 h with ⟨u, rfl, rfl⟩ | ⟨u, er, v, rfl, rfl⟩
  · exact .inl ⟨u, he, rfl⟩
  · exact .inr ⟨u, er, v, he, rfl⟩

/-- What no body writes: the HOST's side of the block, the sequencer, and the error report, which completion writes. -/
structure State.SameFrame (s t : State) : Prop where
  inBuf : t.inBuf = s.inBuf
  inLen : t.inLen = s.inLen
  doneIe : t.doneIe = s.doneIe
  wdrop : t.wdrop = s.wdrop
  pending : t.pending = s.pending
  params : t.params = s.params
  prog : t.prog = s.prog
  sched : t.sched = s.sched
  rdata : t.rdata = s.rdata
  phase : t.phase = s.phase
  done : t.done = s.done
  err : t.err = s.err
  errInfo : t.errInfo = s.errInfo

theorem State.SameFrame.refl (s : State) : s.SameFrame s := by constructor <;> rfl

theorem State.SameFrame.trans {s t u : State} (h : s.SameFrame t) (h' : t.SameFrame u) : s.SameFrame u where
  inBuf := h'.inBuf.trans h.inBuf
  inLen := h'.inLen.trans h.inLen
  doneIe := h'.doneIe.trans h.doneIe
  wdrop := h'.wdrop.trans h.wdrop
  pending := h'.pending.trans h.pending
  params := h'.params.trans h.params
  prog := h'.prog.trans h.prog
  sched := h'.sched.trans h.sched
  rdata := h'.rdata.trans h.rdata
  phase := h'.phase.trans h.phase
  done := h'.done.trans h.done
  err := h'.err.trans h.err
  errInfo := h'.errInfo.trans h.errInfo

/-- The effect keeps the frame, whether it ends or raises. -/
def Effect.KeepsFrame (e : Effect) (s : State) : Prop := e.Ensures True s.SameFrame fun t _ _ => s.SameFrame t

theorem Effect.KeepsFrame.andThen {e : Effect} {k : State → Effect} {s : State} (he : e.KeepsFrame s)
    (hk : ∀ t, (k t).KeepsFrame t) : (e.andThen k).KeepsFrame s :=
  Ensures.andThen he fun t ht => (hk t).mono (fun _ => ht.trans) fun _ _ _ => ht.trans

theorem analyzeBody_keepsFrame (s : State) : (analyzeBody s).KeepsFrame s := by constructor <;> rfl

theorem buildTreeBody_keepsFrame (s : State) : (buildTreeBody s).KeepsFrame s := by
  rcases buildTreeBody_cases s with ⟨f, -, h⟩ | ⟨e, v, -, h⟩ | ⟨b, -, h⟩ <;> rw [h]
  · trivial
  · constructor <;> rfl
  · constructor <;> rfl

theorem genCodesBody_keepsFrame (s : State) : (genCodesBody s).KeepsFrame s := by
  rcases genCodesBody_cases s with ⟨-, h⟩ | ⟨f, -, -, h⟩ | ⟨c, -, -, h⟩ <;> rw [h]
  · exact .refl s
  · trivial
  · constructor <;> rfl

theorem packBody_keepsFrame (s : State) : (packBody s).KeepsFrame s := by
  rcases packBody_cases s with ⟨-, h⟩ | ⟨i, -, -, h⟩ | ⟨bits, -, -, -, h⟩ | ⟨bits, -, -, -, h⟩ <;> rw [h]
  · exact .refl s
  all_goals constructor <;> rfl

theorem serializeBody_keepsFrame (s : State) : (serializeBody s).KeepsFrame s := by
  rcases serializeBody_cases s with ⟨-, h⟩ | ⟨-, -, h⟩ | ⟨-, -, h⟩ <;> rw [h]
  · exact .refl s
  all_goals constructor <;> rfl

theorem parseBody_keepsFrame (s : State) : (parseBody s).KeepsFrame s := by
  rcases parseBody_cases s with ⟨o, -, h⟩ | ⟨r, -, -, h⟩ | ⟨r, -, -, h⟩ <;> rw [h] <;> constructor <;> rfl

theorem walkBody_keepsFrame (s : State) : (walkBody s).KeepsFrame s := by
  rcases walkBody_cases s with ⟨-, h⟩ | ⟨e, v, -, -, -, h⟩ | ⟨out, -, -, -, h⟩ <;> rw [h]
  · exact .refl s
  all_goals constructor <;> rfl

theorem encodeBody_keepsFrame (s : State) : (encodeBody s).KeepsFrame s := by
  refine (analyzeBody_keepsFrame s).andThen fun t => ?_
  split
  · have hpay : t.SameFrame t.emptyPayload := by constructor <;> rfl
    exact (serializeBody_keepsFrame _).mono (fun _ => hpay.trans) fun _ _ _ => hpay.trans
  · exact (buildTreeBody_keepsFrame t).andThen fun t => (genCodesBody_keepsFrame t).andThen fun t =>
      (packBody_keepsFrame t).andThen serializeBody_keepsFrame

theorem decodeBody_keepsFrame (s : State) : (decodeBody s).KeepsFrame s := by
  refine (parseBody_keepsFrame s).andThen fun t => ?_
  split
  · constructor <;> rfl
  · exact (buildTreeBody_keepsFrame t).andThen walkBody_keepsFrame

theorem bodyOf_keepsFrame (i : Instr) (s : State) : (bodyOf i s).KeepsFrame s := by
  cases i with
  | nop => exact .refl s
  | clear => constructor <;> rfl
  | analyze => exact analyzeBody_keepsFrame s
  | buildTree => exact buildTreeBody_keepsFrame s
  | genCodes => exact genCodesBody_keepsFrame s
  | pack => exact packBody_keepsFrame s
  | serialize => exact serializeBody_keepsFrame s
  | encode => exact encodeBody_keepsFrame s
  | parse => exact parseBody_keepsFrame s
  | walk => exact walkBody_keepsFrame s
  | decode => exact decodeBody_keepsFrame s

/-- Settles O4: every body keeps the frame, and completion writes only PHASE, DONE, ERR and ERR_INFO. -/
theorem commandsLeaveHostSideAlone : Obligations.CommandsLeaveHostSideAlone := by
  unfold Obligations.CommandsLeaveHostSideAlone
  intro i s t hexec
  rw [exec_eq_outcome] at hexec
  rcases (bodyOf_keepsFrame i s).outcome hexec with ⟨u, h, rfl⟩ | ⟨u, er, v, h, rfl⟩
  all_goals
    exact ⟨rfl, rfl, h.inBuf, h.inLen, h.doneIe, h.wdrop, h.pending, h.params, h.prog, h.sched, h.rdata⟩

/-- A CORE turn that does anything completes: it sets DONE. -/
theorem coreTurn_done {s t : State} (h : s.coreTurn = .next t) (hbusy : s.phase = .busy) :
    t.phase = .idle ∧ t.done = true := by
  rcases coreTurn_cases s with ⟨hidle, _⟩ | ⟨i, _, _, hc⟩ | ⟨e, _, _, hc⟩
  · rw [hbusy] at hidle; cases hidle
  · rw [hc, exec_eq_outcome] at h
    exact Effect.outcome_phase h
  · rw [hc] at h
    exact Effect.outcome_phase h

/-- A write clears DONE only as an acknowledgement or an issue from IDLE (60_exceptions R320). -/
theorem State.memWrite_clears_done {s : State} {off v : Word} (hdone : s.done = true)
    (h : (s.memWrite off v).done = false) :
    (locate off = .reg .status ∧ v.getLsbD 1 = true) ∨ (locate off = .reg .cmd ∧ s.phase = .idle) := by
  rcases s.memWrite_cases off v with ⟨hstatus, hw⟩ | ⟨_, hw⟩ | ⟨hcmd, hw⟩ | ⟨_, hw⟩ | ⟨_, _, hw⟩ | ⟨_, _, _, hw⟩ |
    ⟨_, _, _, hw⟩ | ⟨_, _, _, _, hw⟩ <;> rw [hw] at h
  case inl => exact .inl ⟨hstatus, by simpa [hdone] using h⟩
  case inr.inr.inl =>
    rcases Bool.eq_false_or_eq_true s.busy with hb | hb
    · rw [State.issue_busy (State.busy_iff.1 hb)] at h
      exact absurd (hdone.symm.trans h) (by decide)
    · exact .inr ⟨hcmd, State.busy_eq_false.1 hb⟩
  all_goals exact absurd (hdone.symm.trans h) (by decide)

/-- Settles O13: completion sets DONE and keeps DONE_IE; of the turns only those named clear DONE. -/
theorem interruptPendingUntilAcknowledged : Obligations.InterruptPendingUntilAcknowledged := by
  unfold Obligations.InterruptPendingUntilAcknowledged
  refine ⟨fun s => rfl, fun i s t hexec => ?_, fun s => ?_, fun s t hstep hdone hcleared => ?_⟩
  · obtain ⟨_, hdone, _, _, hie, _⟩ := commandsLeaveHostSideAlone i s t hexec
    exact ⟨hdone, by rw [State.irq, hdone, hie, Bool.true_and]⟩
  · exact ⟨_, rfl, rfl, Bool.true_and _⟩
  · obtain ⟨ts, -, h | h | ⟨hs, -⟩⟩ := step_cases s
    · obtain rfl := Host.Outcome.next.inj (hstep.symm.trans h)
      rcases State.hostTurn_cases { s with sched := ts } with h | ⟨off, v, ops, hprog, h⟩ | ⟨d, ops, x, h⟩ <;>
        rw [h] at hcleared
      · exact absurd (hdone.symm.trans hcleared) (by decide)
      · exact .inl ⟨off, v, ops, hprog,
          State.memWrite_clears_done (s := { s with sched := ts, prog := ops }) hdone hcleared⟩
      · exact absurd (hdone.symm.trans hcleared) (by decide)
    · rw [h] at hstep
      rcases Bool.eq_false_or_eq_true s.busy with hb | hb
      · exact absurd ((coreTurn_done hstep (State.busy_iff.1 hb)).2.symm.trans hcleared) (by decide)
      · rw [show ({ s with sched := ts } : State).coreTurn = .next { s with sched := ts } by
          simp only [State.coreTurn, State.busy_eq_false.1 hb]] at hstep
        rw [← Host.Outcome.next.inj hstep] at hcleared
        exact absurd (hdone.symm.trans hcleared) (by decide)
    · exact .inr ⟨ts, hs⟩

end Sys2Proof.Machine
end

section
/-! PROOFS. The priority queue in heap order (40_datapath R132 to R136): each round of SiftDown or SiftUp moves the only
position at which the order can fail. -/

namespace Sys2Proof.Machine

/-! ### Comparing positions -/

theorem keyLt_asymm {a b : Key} (h : keyLt a b = true) : keyLt b a = false :=
  Bool.eq_false_iff.2 fun h' => absurd (keyLt_trans h h') (by simp [keyLt_irrefl])

theorem keyLt_false_trans {a b c : Key} (h1 : keyLt a b = false) (h2 : keyLt b c = false) : keyLt a c = false := by
  rw [Bool.eq_false_iff] at *
  rw [Ne, keyLt_iff] at *
  simp only [Fin.lt_def] at *
  omega

namespace Heap

variable {h : Heap} {i j p q : Nat}

theorem less_eq_true : less h p q = true ↔ ∃ a b, h[p]? = some a ∧ h[q]? = some b ∧ keyLt a b = true := by
  unfold less
  split
  · rename_i a b ha hb; simp [ha, hb]
  · rename_i hnone
    simp only [Bool.false_eq_true, false_iff]
    rintro ⟨a, b, ha, hb, -⟩
    exact hnone a b ha hb

theorem less_eq_false : less h p q = false ↔ ∀ a b, h[p]? = some a → h[q]? = some b → keyLt a b = false := by
  simp only [← Bool.not_eq_true, less_eq_true, not_exists, not_and]

theorem less_beyond (hp : h.length ≤ p) (q : Nat) : less h p q = false :=
  less_eq_false.2 fun a _ ha => absurd ha (by simp [List.getElem?_eq_none hp])

theorem less_lt_length (hl : less h p q = true) : p < h.length ∧ q < h.length := by
  obtain ⟨a, b, ha, hb, -⟩ := less_eq_true.1 hl
  exact ⟨(List.getElem?_eq_some_iff.1 ha).1, (List.getElem?_eq_some_iff.1 hb).1⟩

theorem less_irrefl (h : Heap) (p : Nat) : less h p p = false :=
  less_eq_false.2 fun a b ha hb => by rw [ha] at hb; cases hb; exact keyLt_irrefl a

theorem less_asymm (hl : less h p q = true) : less h q p = false := by
  obtain ⟨a, b, ha, hb, hab⟩ := less_eq_true.1 hl
  refine less_eq_false.2 fun b' a' hb' ha' => ?_
  cases ha.symm.trans ha'; cases hb.symm.trans hb'
  exact keyLt_asymm hab

/-- "Not less" is transitive through a position inside the heap. -/
theorem less_false_trans {r : Nat} (hq : q < h.length) (h1 : less h p q = false) (h2 : less h q r = false) :
    less h p r = false :=
  less_eq_false.2 fun a c ha hc => keyLt_false_trans (less_eq_false.1 h1 a h[q] ha (List.getElem?_eq_getElem hq))
    (less_eq_false.1 h2 h[q] c (List.getElem?_eq_getElem hq) hc)

/-- Two heaps that agree at two positions compare them alike. -/
theorem less_congr {h' : Heap} {p' q' : Nat} (hp : h[p]? = h'[p']?) (hq : h[q]? = h'[q']?) :
    less h p q = less h' p' q' := by
  simp only [less, hp, hq]

theorem getElem?_swap (hp : p < h.length) (hq : q < h.length) (x : Nat) :
    (swap h p q)[x]? = h[Equiv.swap p q x]? := by
  simp only [swap, List.getElem?_eq_getElem hp, List.getElem?_eq_getElem hq, List.getElem?_set, List.length_set]
  rcases eq_or_ne x q with rfl | hxq
  · simp [hq, hp]
  rcases eq_or_ne x p with rfl | hxp
  · simp [hxq.symm, hp, hq]
  · simp [hxq.symm, hxp.symm, Equiv.swap_apply_of_ne_of_ne hxp hxq]

theorem less_swap (hi : i < h.length) (hj : j < h.length) (p q : Nat) :
    less (swap h i j) p q = less h (Equiv.swap i j p) (Equiv.swap i j q) :=
  less_congr (getElem?_swap hi hj p) (getElem?_swap hi hj q)

@[simp] theorem length_swap : (swap h p q).length = h.length := (swap_perm h p q).length_eq

/-! ### SiftDown -/

/-- The heap order at every position whose parent is `k` or later. -/
def OrderedFrom (k : Nat) (h : Heap) : Prop := ∀ j, 0 < j → k ≤ (j - 1) / 2 → less h j ((j - 1) / 2) = false

theorem orderedFrom_zero : OrderedFrom 0 h ↔ IsHeap h := by
  refine ⟨fun ho i hi _ => ho i hi (Nat.zero_le _), fun ho j hj _ => ?_⟩
  by_cases hlt : j < h.length
  · exact ho j hj hlt
  · exact less_beyond (Nat.not_lt.1 hlt) _

/-- The heap order from `k` on, but between `i` and its children, which still respect `i`'s parent. -/
def OrderedExceptBelow (k i : Nat) (h : Heap) : Prop :=
  (∀ j, 0 < j → k ≤ (j - 1) / 2 → (j - 1) / 2 ≠ i → less h j ((j - 1) / 2) = false) ∧
  (∀ j, 0 < j → (j - 1) / 2 = i → 0 < i → k ≤ (i - 1) / 2 → less h j ((i - 1) / 2) = false)

/-- `leastAt` is `i` or one of its children, and neither `i` nor a child is less. -/
theorem leastAt_spec (h : Heap) (i : Nat) :
    (leastAt h i = i ∨ ((leastAt h i - 1) / 2 = i ∧ i < leastAt h i ∧ less h (leastAt h i) i = true)) ∧
    less h i (leastAt h i) = false ∧
    ∀ j, 0 < j → (j - 1) / 2 = i → less h j (leastAt h i) = false := by
  have children {m : Nat} (h1 : less h (2 * i + 1) m = false) (h2 : less h (2 * i + 2) m = false) (j : Nat) (hj : 0 < j)
      (hi : (j - 1) / 2 = i) : less h j m = false := by
    obtain rfl | rfl : j = 2 * i + 1 ∨ j = 2 * i + 2 := by omega
    · exact h1
    · exact h2
  unfold leastAt
  by_cases hl : less h (2 * i + 1) i = true
  · simp only [hl, if_true]
    by_cases hr : less h (2 * i + 2) (2 * i + 1) = true
    · rw [if_pos hr]
      obtain ⟨a, b, ha, hb, hab⟩ := less_eq_true.1 hr
      obtain ⟨b', c, hb', hc, hbc⟩ := less_eq_true.1 hl
      cases hb.symm.trans hb'
      have hright : less h (2 * i + 2) i = true := less_eq_true.2 ⟨a, c, ha, hc, keyLt_trans hab hbc⟩
      exact ⟨.inr ⟨by omega, by omega, hright⟩, less_asymm hright, children (less_asymm hr) (less_irrefl _ _)⟩
    · rw [if_neg hr]
      exact ⟨.inr ⟨by omega, by omega, hl⟩, less_asymm hl, children (less_irrefl _ _) (Bool.eq_false_iff.2 hr)⟩
  · simp only [hl, Bool.false_eq_true, if_false]
    by_cases hr : less h (2 * i + 2) i = true
    · rw [if_pos hr]
      refine ⟨.inr ⟨by omega, by omega, hr⟩, less_asymm hr, children ?_ (less_irrefl _ _)⟩
      exact less_false_trans (less_lt_length hr).2 (Bool.eq_false_iff.2 hl) (less_asymm hr)
    · rw [if_neg hr]
      exact ⟨.inl rfl, less_irrefl _ _, children (Bool.eq_false_iff.2 hl) (Bool.eq_false_iff.2 hr)⟩

/-- One round of SiftDown: after the swap the order can fail only below the child swapped with. -/
theorem orderedExceptBelow_swap {k m : Nat} (ho : OrderedExceptBelow k i h) (hki : k ≤ i) (hm : m = leastAt h i)
    (hne : m ≠ i) : OrderedExceptBelow k m (swap h i m) ∧ i < m := by
  obtain ⟨hwhich, hself, hchildren⟩ := leastAt_spec h i
  rw [← hm] at hwhich hself hchildren
  obtain ⟨hparent, hlt, hless⟩ := hwhich.resolve_left hne
  obtain ⟨hml, hil⟩ := less_lt_length hless
  refine ⟨⟨fun j hj hk hjm => ?_, fun j hj hjm _ _ => ?_⟩, hlt⟩ <;> rw [less_swap hil hml]
  · by_cases hji : (j - 1) / 2 = i
    · rw [hji, Equiv.swap_apply_left]
      by_cases hjeq : j = m
      · rw [hjeq, Equiv.swap_apply_right]; exact hself
      · rw [Equiv.swap_apply_of_ne_of_ne (by omega) hjeq]; exact hchildren j hj hji
    · rw [Equiv.swap_apply_of_ne_of_ne hji hjm]
      by_cases hjeq : j = i
      · subst hjeq
        rw [Equiv.swap_apply_left]; exact ho.2 m (by omega) hparent hj hk
      · rw [Equiv.swap_apply_of_ne_of_ne hjeq (by rintro rfl; exact hji hparent)]; exact ho.1 j hj hk hji
  · rw [hparent, Equiv.swap_apply_left, Equiv.swap_apply_of_ne_of_ne (by omega) (by omega)]
    simpa only [hjm] using ho.1 j hj (by omega) (by omega)

theorem orderedFrom_siftDown {k rounds : Nat} (ho : OrderedExceptBelow k i h) (hki : k ≤ i)
    (hr : h.length ≤ rounds + i) : OrderedFrom k (siftDown rounds h i) := by
  induction rounds generalizing h i with
  | zero =>
    show OrderedFrom k h
    intro j hj hk
    by_cases hji : (j - 1) / 2 = i
    · exact less_beyond (by omega) _
    · exact ho.1 j hj hk hji
  | succ rounds ih =>
    simp only [siftDown]
    split
    · rename_i hm
      intro j hj hk
      by_cases hji : (j - 1) / 2 = i
      · rw [hji]
        simpa only [hm] using (leastAt_spec h i).2.2 j hj hji
      · exact ho.1 j hj hk hji
    · rename_i hm
      obtain ⟨hswap, hlt⟩ := orderedExceptBelow_swap ho hki rfl hm
      exact ih hswap (by omega) (by rw [length_swap]; omega)

theorem isHeap_heapify {k : Nat} (ho : OrderedFrom k h) : IsHeap (heapify k h) := by
  induction k generalizing h with
  | zero => exact orderedFrom_zero.1 ho
  | succ k ih =>
    refine ih (orderedFrom_siftDown ⟨fun j hj hk hne => ho j hj (by omega), fun j _ _ hpos hk => ?_⟩ le_rfl (by omega))
    omega

theorem isHeap_build (list : List Key) : IsHeap (build list) :=
  isHeap_heapify fun _ _ hk => less_beyond (by omega) _

/-! ### SiftUp -/

/-- The heap order but at position `i`, whose children respect `i`'s parent. -/
def OrderedExceptAt (i : Nat) (h : Heap) : Prop :=
  (∀ j, 0 < j → j ≠ i → less h j ((j - 1) / 2) = false) ∧
  (∀ j, 0 < j → (j - 1) / 2 = i → 0 < i → less h j ((i - 1) / 2) = false)

/-- One round of SiftUp: after the swap the order can fail only at the parent. -/
theorem orderedExceptAt_swap (ho : OrderedExceptAt i h) (hi : 0 < i) (hp : p = (i - 1) / 2)
    (hless : less h i p = true) : OrderedExceptAt p (swap h i p) := by
  obtain ⟨hil, hpl⟩ := less_lt_length hless
  refine ⟨fun j hj hjp => ?_, fun j hj hjp hpos => ?_⟩ <;> rw [less_swap hil hpl]
  · by_cases hji : j = i
    · rw [hji, ← hp, Equiv.swap_apply_left, Equiv.swap_apply_right]; exact less_asymm hless
    rw [Equiv.swap_apply_of_ne_of_ne hji hjp]
    by_cases hqi : (j - 1) / 2 = i
    · rw [hqi, Equiv.swap_apply_left, hp]; exact ho.2 j hj hqi hi
    by_cases hqp : (j - 1) / 2 = p
    · rw [hqp, Equiv.swap_apply_right]
      exact less_false_trans hpl (hqp ▸ ho.1 j hj hji) (less_asymm hless)
    · rw [Equiv.swap_apply_of_ne_of_ne hqi hqp]; exact ho.1 j hj hji
  · have hparent : less h p ((p - 1) / 2) = false := ho.1 p hpos (by omega)
    rw [Equiv.swap_apply_of_ne_of_ne (x := (p - 1) / 2) (by omega) (by omega)]
    by_cases hji : j = i
    · rw [hji, Equiv.swap_apply_left]; exact hparent
    · rw [Equiv.swap_apply_of_ne_of_ne hji (by omega)]
      exact less_false_trans hpl (hjp ▸ ho.1 j hj hji) hparent

theorem isHeap_siftUp {rounds : Nat} (ho : OrderedExceptAt i h) (hr : i ≤ rounds) : IsHeap (siftUp rounds h i) := by
  induction rounds generalizing h i with
  | zero => exact fun j hj _ => ho.1 j hj (by omega)
  | succ rounds ih =>
    simp only [siftUp]
    split
    · rename_i hc
      obtain ⟨hi, hless⟩ := Bool.and_eq_true_iff.1 hc
      have hi := of_decide_eq_true hi
      exact ih (orderedExceptAt_swap ho hi rfl hless) (by omega)
    · rename_i hc
      intro j hj _
      by_cases hji : j = i
      · subst hji
        exact Bool.eq_false_iff.2 fun hless => hc (by simp [hj, hless])
      · exact ho.1 j hj hji

theorem isHeap_push (hh : IsHeap h) (j : Key) : IsHeap (push h j) := by
  refine isHeap_siftUp ⟨fun x hx hne => ?_, fun x hx hxi _ => less_beyond (by simp; omega) _⟩ le_rfl
  by_cases hxl : x < h.length
  · rw [less_congr (h' := h) (List.getElem?_append_left hxl) (List.getElem?_append_left (by omega))]
    exact hh x hx hxl
  · exact less_beyond (by simp; omega) _

/-! ### Pop -/

/-- In a heap no position is less than the first. -/
theorem less_first (hh : IsHeap h) (i : Nat) : less h i 0 = false := by
  induction i using Nat.strong_induction_on with
  | _ i ih =>
    by_cases hi : i < h.length
    · rcases Nat.eq_zero_or_pos i with rfl | hpos
      · exact less_irrefl _ _
      · exact less_false_trans (by omega) (hh i hpos hi) (ih ((i - 1) / 2) (by omega))
    · exact less_beyond (Nat.not_lt.1 hi) _

theorem keyLt_first {top : Key} (hh : IsHeap h) (htop : h.head? = some top) {k : Key} (hk : k ∈ h) :
    keyLt k top = false := by
  obtain ⟨i, hi⟩ := List.getElem?_of_mem hk
  exact less_eq_false.1 (less_first hh i) k top hi (by rw [← htop, List.head?_eq_getElem?])

/-- Pop moves the last key to the front and sifts it down, which restores the order. -/
theorem isHeap_pop (hh : IsHeap h) {top : Key} {h' : Heap} (hpop : pop h = .ok (top, h')) : IsHeap h' := by
  match h, hpop with
  | [top], hpop =>
    cases hpop
    exact fun i _ hi => absurd hi (Nat.not_lt_zero i)
  | top :: a :: rest, hpop =>
    cases hpop
    refine orderedFrom_zero.1 (orderedFrom_siftDown ⟨fun j hj _ hne => ?_, fun _ _ _ hpos => absurd hpos (lt_irrefl 0)⟩
      le_rfl le_rfl)
    set last := (a :: rest).getLast (List.cons_ne_nil a rest)
    have hsame {x : Nat} (hx : 0 < x) (hl : x < (last :: (a :: rest).dropLast).length) :
        (last :: (a :: rest).dropLast)[x]? = (top :: a :: rest)[x]? := by
      obtain ⟨x, rfl⟩ := Nat.exists_eq_succ_of_ne_zero hx.ne'
      simp only [List.length_cons, List.length_dropLast] at hl
      rw [List.getElem?_cons_succ, List.getElem?_cons_succ, List.getElem?_dropLast, if_pos (by simp; omega)]
    by_cases hjl : j < (last :: (a :: rest).dropLast).length
    · rw [less_congr (hsame hj hjl) (hsame (by omega) (by omega))]
      refine hh j hj ?_
      simp only [List.length_cons, List.length_dropLast] at hjl ⊢
      omega
    · exact less_beyond (Nat.not_lt.1 hjl) _

/-- Pop of a heap that is not empty: the first key, which none is less than, and the others, in heap order. -/
theorem pop_least (hh : IsHeap h) (hne : h ≠ []) :
    ∃ top h', pop h = .ok (top, h') ∧ h.Perm (top :: h') ∧ IsHeap h' ∧ ∀ k ∈ h, keyLt k top = false := by
  obtain ⟨top, h', hpop, htop, hperm⟩ := pop_perm hne
  exact ⟨top, h', hpop, hperm.symm, isHeap_pop hh hpop, fun k => keyLt_first hh htop⟩

end Heap

/-- Settles O29: HeapBuild, Push and Pop, each with the queue's contents. -/
theorem heapPopsTheLeastKey : Obligations.HeapPopsTheLeastKey := by
  unfold Obligations.HeapPopsTheLeastKey
  exact ⟨fun list => ⟨Heap.isHeap_build list, Heap.build_perm list⟩,
    fun h j hh => ⟨Heap.isHeap_push hh j, Heap.push_perm h j⟩, fun h hh hne => Heap.pop_least hh hne⟩

end Sys2Proof.Machine
end

section
/-! PROOFS. BuildTree's checks (40_datapath R140, 60_exceptions R304): what its first loop answers, and so which tables
have a tree and which error the others get. -/

namespace Sys2Proof.Machine

/-- The first loop succeeds exactly if every frequency is in range and the total is. -/
theorem sumFreqs_ok_iff {F : Table Word} {total n : Nat} {ss : List Byte} (ht : total ≤ Config.int32Max) :
    sumFreqs F total ss = .ok n ↔
      (∀ x ∈ ss, freqOf F x < 2 ^ 31) ∧ total + freqSum F ss ≤ Config.int32Max ∧ n = total + freqSum F ss := by
  induction ss generalizing total with
  | nil => simp [sumFreqs, freqSum, ht, eq_comm]
  | cons s ss ih =>
    have hsum : freqSum F (s :: ss) = freqOf F s + freqSum F ss := rfl
    rw [hsum, List.forall_mem_cons, sumFreqs]
    split
    · simp only [reduceCtorEq, false_iff]; omega
    split
    · simp only [reduceCtorEq, false_iff]; omega
    · rw [ih (by omega), Nat.add_assoc]
      constructor
      · rintro ⟨h1, h2, h3⟩; exact ⟨⟨by omega, h1⟩, h2, h3⟩
      · rintro ⟨⟨_, h1⟩, h2, h3⟩; exact ⟨h1, h2, h3⟩

/-- It reports the first symbol at which a check fails. -/
theorem sumFreqs_first_failing {F : Table Word} {total : Nat} {pre post : List Byte} {s : Byte}
    (hpre : ∀ x ∈ pre, freqOf F x < 2 ^ 31) (hsum : total + freqSum F pre ≤ Config.int32Max)
    (hs : 2 ^ 31 ≤ freqOf F s ∨ Config.int32Max < total + freqSum F pre + freqOf F s) :
    sumFreqs F total (pre ++ s :: post) = .error s := by
  induction pre generalizing total with
  | nil =>
    have hnil : freqSum F [] = 0 := rfl
    rw [List.nil_append, sumFreqs]
    split
    · rfl
    · rw [if_pos (by omega)]
  | cons x xs ih =>
    have hcons : freqSum F (x :: xs) = freqOf F x + freqSum F xs := rfl
    rw [List.forall_mem_cons] at hpre
    rw [List.cons_append, sumFreqs, if_neg (by omega), if_neg (by omega)]
    exact ih hpre.2 (by omega) (by omega)

theorem freqSum_present (F : Table Word) : freqSum F (present F) = freqSum F allSymbols := sum_present F

/-- The absent symbols do not matter to legality. -/
theorem freqLegal_iff_present {F : Table Word} :
    FreqLegal F ↔ (∀ x ∈ present F, freqOf F x < 2 ^ 31) ∧ freqSum F (present F) ≤ Config.int32Max := by
  rw [freqSum_present]
  refine and_congr ⟨fun h x _ => h x, fun h x => ?_⟩ Iff.rfl
  by_cases hx : freqOf F x = 0
  · omega
  · exact h x (mem_present.2 hx)

theorem sumFreqs_present_iff {F : Table Word} {n : Nat} :
    sumFreqs F 0 (present F) = .ok n ↔ FreqLegal F ∧ n = freqSum F allSymbols := by
  rw [sumFreqs_ok_iff (Nat.zero_le _), Nat.zero_add, freqLegal_iff_present, freqSum_present, and_assoc]

/-- BuildTree answers a tree exactly on the legal tables with a present symbol. -/
theorem buildTree_ok_iff {F : Table Word} {b : Built} :
    buildTree F = .ok b ↔ FreqLegal F ∧ present F ≠ [] ∧ buildFrom F (freqSum F allSymbols) = .ok b := by
  unfold buildTree
  cases hsum : sumFreqs F 0 (present F) with
  | error s =>
    have hillegal : ¬ FreqLegal F := fun h => by rw [sumFreqs_present_iff.2 ⟨h, rfl⟩] at hsum; cases hsum
    simp [hillegal]
  | ok total =>
    obtain ⟨hlegal, htotal⟩ := sumFreqs_present_iff.1 hsum
    simp only [List.length_eq_zero_iff, hlegal, true_and, ← htotal]
    by_cases hnil : present F = []
    · simp [hnil]
    · rw [if_neg hnil]
      cases buildFrom F total <;> simp [hnil]

theorem buildTree_of_legal {F : Table Word} (hlegal : FreqLegal F) (hne : present F ≠ []) :
    ∃ b, buildTree F = .ok b := by
  obtain ⟨b, hb⟩ := buildFrom_ok hne (freqSum F allSymbols)
  exact ⟨b, buildTree_ok_iff.2 ⟨hlegal, hne, hb⟩⟩

theorem buildTree_of_empty {F : Table Word} (h : present F = []) : buildTree F = .error (.err .emptyInput 0#32) := by
  simp [buildTree, h, sumFreqs]

theorem buildTree_first_failing {F : Table Word} {pre post : List Byte} {s : Byte} (hF : present F = pre ++ s :: post)
    (hpre : ∀ x ∈ pre, freqOf F x < 2 ^ 31) (hsum : freqSum F pre ≤ Config.int32Max)
    (hs : 2 ^ 31 ≤ freqOf F s ∨ Config.int32Max < freqSum F pre + freqOf F s) :
    buildTree F = .error (.err .malformedHeader (word s.toNat)) := by
  have hfail : sumFreqs F 0 (present F) = .error s := by
    rw [hF]
    exact sumFreqs_first_failing hpre (by rwa [Nat.zero_add]) (by rwa [Nat.zero_add])
  simp only [buildTree, hfail]

/-- What BuildTree can answer: a tree, or one of its two errors, but no fault. -/
theorem buildTree_cases (F : Table Word) :
    (∃ b, buildTree F = .ok b) ∨ (buildTree F = .error (.err .emptyInput 0#32) ∧ present F = []) ∨
    (∃ s, buildTree F = .error (.err .malformedHeader (word s)) ∧ ¬ FreqLegal F) := by
  by_cases hne : present F = []
  · exact .inr (.inl ⟨buildTree_of_empty hne, hne⟩)
  by_cases hlegal : FreqLegal F
  · exact .inl (buildTree_of_legal hlegal hne)
  · cases hsum : sumFreqs F 0 (present F) with
    | ok n => exact absurd (sumFreqs_present_iff.1 hsum).1 hlegal
    | error s => exact .inr (.inr ⟨s.toNat, by simp only [buildTree, hsum], hlegal⟩)

/-- Settles O30: the checks' answers, and that the builder behind them always builds. -/
theorem buildTreeOutcomes : Obligations.BuildTreeOutcomes := by
  unfold Obligations.BuildTreeOutcomes
  intro F
  refine ⟨buildTree_of_legal, buildTree_of_empty, fun pre post s => buildTree_first_failing, fun f hf => ?_⟩
  rcases buildTree_cases F with ⟨b, h⟩ | ⟨h, _⟩ | ⟨s, h, _⟩ <;> rw [h] at hf <;> cases hf

end Sys2Proof.Machine
end

section
/-! PROOFS. BuildTree's loop (40_datapath R140 to R142): what holds of the arena below the next free entry and of the
queue, round after round, and so the shape of every built tree. -/

namespace Sys2Proof.Machine

theorem val_nodeIdx {n : Nat} (h : n < 511) : (nodeIdx n).val = n := Nat.mod_eq_of_lt h

theorem nodeIdx_val (j : NodeIdx) : nodeIdx j.val = j := Fin.ext (val_nodeIdx j.isLt)

theorem parentOf_internal {A : Arena} {p l r : NodeIdx} {f : Word} (h : A[p] = .internal f l r) (j : NodeIdx) :
    ParentOf A p j ↔ l = j ∨ r = j := by
  simp only [ParentOf, h]

theorem parentOf_leaf {A : Arena} {p : NodeIdx} {s : Byte} {f : Word} (h : A[p] = .leaf s f) (j : NodeIdx) :
    ¬ ParentOf A p j := by
  simp only [ParentOf, h, not_false_eq_true]

/-- Only internal nodes have children. -/
theorem ParentOf.internal {A : Arena} {p j : NodeIdx} (h : ParentOf A p j) :
    ∃ f l r, A[p] = .internal f l r ∧ (l = j ∨ r = j) := by
  cases hp : A[p] with
  | leaf s f => exact absurd h (parentOf_leaf hp j)
  | internal f l r => exact ⟨f, l, r, rfl, (parentOf_internal hp j).1 h⟩

/-- Entry `j` waits when entry `next` is to be made. -/
def WaitingAt (A : Arena) (next : Nat) (j : NodeIdx) : Prop :=
  j.val < next ∧ ∀ p : NodeIdx, p.val < next → ¬ ParentOf A p j

theorem waitingAt_val {A : Arena} {j k : NodeIdx} : WaitingAt A j.val k ↔ Arena.Waiting A j k := Iff.rfl

/-- What the internal node at `j` joins (40_datapath R140, R142 (c)). -/
structure JoinsLeast (A : Arena) (j : NodeIdx) (f : Word) (l r : NodeIdx) : Prop where
  left : WaitingAt A j.val l
  right : WaitingAt A j.val r
  ordered : keyLt (Arena.key A l) (Arena.key A r) = true
  least : ∀ k, WaitingAt A j.val k → k ≠ l → k ≠ r → keyLt (Arena.key A r) (Arena.key A k) = true
  freq : f.toNat = A[l].freq + A[r].freq

/-- A node's two children differ. -/
theorem JoinsLeast.ne {A : Arena} {j l r : NodeIdx} {f : Word} (h : JoinsLeast A j f l r) : l ≠ r := by
  rintro rfl
  exact absurd h.ordered (by simp [keyLt_irrefl])

/-- The loop of BuildTree before it makes entry `next`: the arena below `next`, of which the first `n` entries are
leaves, and the queue. -/
structure Progress (A : Arena) (n total next : Nat) (h : Heap) : Prop where
  heap : IsHeap h
  nodup : h.Nodup
  mem : ∀ k, k ∈ h ↔ k = Arena.key A k.idx ∧ WaitingAt A next k.idx
  sum : (h.map Key.freq).sum = total
  bound : ∀ j : NodeIdx, j.val < next → A[j].freq ≤ total
  leaf : ∀ j : NodeIdx, j.val < n → ∃ s f, A[j] = .leaf s f
  internal : ∀ j : NodeIdx, n ≤ j.val → j.val < next → ∃ f l r, A[j] = .internal f l r ∧ JoinsLeast A j f l r
  parent : ∀ j p q : NodeIdx, p.val < next → q.val < next → ParentOf A p j → ParentOf A q j → p = q

variable {A : Arena} {n total next : Nat} {h : Heap}

theorem Progress.joins (hp : Progress A n total next h) {j l r : NodeIdx} {f : Word} (hj : j.val < next)
    (hint : A[j] = .internal f l r) : n ≤ j.val ∧ JoinsLeast A j f l r := by
  by_cases hn : n ≤ j.val
  · obtain ⟨f', l', r', hint', hjoins⟩ := hp.internal j hn hj
    rw [hint] at hint'
    cases hint'
    exact ⟨hn, hjoins⟩
  · obtain ⟨s, f', hleaf⟩ := hp.leaf j (by omega)
    rw [hint] at hleaf
    cases hleaf

/-- A child is an earlier entry. -/
theorem Progress.child_lt (hp : Progress A n total next h) {p j : NodeIdx} (hlt : p.val < next)
    (hpar : ParentOf A p j) :
    j.val < p.val := by
  obtain ⟨f, l, r, hint, rfl | rfl⟩ := hpar.internal
  · exact (hp.joins hlt hint).2.left.1
  · exact (hp.joins hlt hint).2.right.1

/-- A round's two pops take the two least keys out of the queue, and its node joins them. -/
theorem mergeTwo_pops {node : Node} {h' : Heap} (hh : IsHeap h) (hm : mergeTwo h next = .ok (node, h')) :
    ∃ l r h2, h.Perm (l :: r :: h2) ∧ h'.Perm ({ freq := l.freq + r.freq, idx := nodeIdx next } :: h2) ∧
      IsHeap h' ∧ (∀ k ∈ h, keyLt k l = false) ∧ (∀ k ∈ h2, keyLt k r = false) ∧
      node = .internal (word (l.freq + r.freq)) l.idx r.idx := by
  have pop_ne {q : Heap} {x : Key × Heap} (hx : Heap.pop q = .ok x) : q ≠ [] := by rintro rfl; cases hx
  unfold mergeTwo at hm
  cases h1 : Heap.pop h with
  | error f => simp [h1] at hm
  | ok x =>
    obtain ⟨l, t⟩ := x
    obtain ⟨l', t', hpop1, hperm1, hheap1, hleast1⟩ := Heap.pop_least hh (pop_ne h1)
    rw [h1] at hpop1
    cases hpop1
    cases h2 : Heap.pop t with
    | error f => simp [h1, h2] at hm
    | ok y =>
      obtain ⟨r, u⟩ := y
      obtain ⟨r', u', hpop2, hperm2, hheap2, hleast2⟩ := Heap.pop_least hheap1 (pop_ne h2)
      rw [h2] at hpop2
      cases hpop2
      simp only [h1, h2, Except.ok.injEq, Prod.mk.injEq] at hm
      obtain ⟨rfl, rfl⟩ := hm
      exact ⟨l, r, u, hperm1.trans (hperm2.cons l), Heap.push_perm .., Heap.isHeap_push hheap2 _, hleast1,
        fun k hk => hleast2 k (hperm2.mem_iff.2 (List.mem_cons_of_mem _ hk)), rfl⟩

/-- A key that is not less than another and has another index is greater. -/
theorem keyLt_of_not {a b : Key} (hne : a.idx ≠ b.idx) (h : keyLt b a = false) : keyLt a b = true :=
  (keyLt_total hne).resolve_right (by simp [h])

theorem val_lt_succ {j : NodeIdx} (hnext : next < 511) (hj : j.val < next + 1) : j.val < next ∨ j = nodeIdx next := by
  rcases Nat.lt_succ_iff_lt_or_eq.1 hj with hlt | heq
  · exact .inl hlt
  · exact .inr (Fin.ext (heq.trans (val_nodeIdx hnext).symm))

/-- Keys in the queue are told apart by their index. -/
theorem Progress.idx_eq_iff (hp : Progress A n total next h) {a b : Key} (ha : a = Arena.key A a.idx) (hb : b ∈ h) :
    a.idx = b.idx ↔ a = b :=
  ⟨fun he => ha.trans (he ▸ ((hp.mem b).1 hb).1.symm), congrArg Key.idx⟩

section Round

/-! One round: `l` and `r` leave the queue, in which `h2` stays. -/

variable {l r : Key} {h2 : Heap} (hp : Progress A n total next h) (hnext : next < 511) (hperm : h.Perm (l :: r :: h2))

include hp hperm

theorem Progress.popped :
    (l = Arena.key A l.idx ∧ WaitingAt A next l.idx) ∧ (r = Arena.key A r.idx ∧ WaitingAt A next r.idx) :=
  ⟨(hp.mem l).1 (hperm.mem_iff.2 (by simp)), (hp.mem r).1 (hperm.mem_iff.2 (by simp))⟩

theorem Progress.popped_sum : l.freq + (r.freq + (h2.map Key.freq).sum) = total := by
  rw [← hp.sum, (hperm.map Key.freq).sum_eq, List.map_cons, List.map_cons, List.sum_cons, List.sum_cons]

/-- What stays in the queue are the other waiting entries. -/
theorem Progress.mem_rest (k : Key) :
    k ∈ h2 ↔ k = Arena.key A k.idx ∧ WaitingAt A next k.idx ∧ k.idx ≠ l.idx ∧ k.idx ≠ r.idx := by
  have hl : l ∈ h := hperm.mem_iff.2 (by simp)
  have hr : r ∈ h := hperm.mem_iff.2 (by simp)
  have hnodup := hperm.nodup_iff.1 hp.nodup
  simp only [List.nodup_cons, List.mem_cons, not_or] at hnodup
  obtain ⟨⟨_, hl2⟩, hr2, _⟩ := hnodup
  constructor
  · intro hk
    obtain ⟨hkey, hw⟩ := (hp.mem k).1 (hperm.mem_iff.2 (by simp [hk]))
    rw [Ne, Ne, hp.idx_eq_iff hkey hl, hp.idx_eq_iff hkey hr]
    exact ⟨hkey, hw, fun he => hl2 (he ▸ hk), fun he => hr2 (he ▸ hk)⟩
  · rintro ⟨hkey, hw, hkl, hkr⟩
    rw [Ne, hp.idx_eq_iff hkey hl] at hkl
    rw [Ne, hp.idx_eq_iff hkey hr] at hkr
    simpa [hkl, hkr] using hperm.mem_iff.1 ((hp.mem k).2 ⟨hkey, hw⟩)

include hnext

/-- The entry a round makes joins the two waiting entries with the least keys. -/
theorem Progress.joins_new (htotal : total < 2 ^ 32) (hl : ∀ k ∈ h, keyLt k l = false)
    (hr : ∀ k ∈ h2, keyLt k r = false) : JoinsLeast A (nodeIdx next) (word (l.freq + r.freq)) l.idx r.idx := by
  have hv := val_nodeIdx hnext
  obtain ⟨⟨hlkey, hlwait⟩, hrkey, hrwait⟩ := hp.popped hperm
  have hrmem : r ∈ h := hperm.mem_iff.2 (by simp)
  have hlr : l ≠ r := by
    have hnodup := hperm.nodup_iff.1 hp.nodup
    rintro rfl
    simp at hnodup
  refine ⟨by rwa [hv], by rwa [hv], ?_, fun k hk hkl hkr => ?_, ?_⟩
  · rw [← hlkey, ← hrkey]
    exact keyLt_of_not (fun he => hlr ((hp.idx_eq_iff hlkey hrmem).1 he)) (hl r hrmem)
  · rw [hv] at hk
    rw [← hrkey]
    exact keyLt_of_not (Ne.symm hkr) (hr _ ((hp.mem_rest hperm _).2 ⟨rfl, hk, hkl, hkr⟩))
  · have hsum := hp.popped_sum hperm
    rw [toNat_word (by omega), congrArg Key.freq hlkey, congrArg Key.freq hrkey]
    rfl

variable (hnode : A[nodeIdx next] = .internal (word (l.freq + r.freq)) l.idx r.idx)

include hnode

omit hnext in
/-- The new entry's key is the one pushed: its frequency does not wrap. -/
theorem Progress.key_new (htotal : total < 2 ^ 32) :
    Arena.key A (nodeIdx next) = { freq := l.freq + r.freq, idx := nodeIdx next } := by
  have hsum := hp.popped_sum hperm
  simp only [Arena.key, hnode, Node.freq, toNat_word (show l.freq + r.freq < 2 ^ 32 by omega)]

/-- After the round the new entry waits, and the two it joins no longer do. -/
theorem Progress.waitingAt_succ (j : NodeIdx) : WaitingAt A (next + 1) j ↔
    (WaitingAt A next j ∧ j ≠ l.idx ∧ j ≠ r.idx) ∨ j = nodeIdx next := by
  have hv := val_nodeIdx hnext
  obtain ⟨⟨-, hlwait⟩, -, hrwait⟩ := hp.popped hperm
  constructor
  · rintro ⟨hj, hnone⟩
    rcases val_lt_succ hnext hj with hlt | rfl
    · have hnone' := hnone (nodeIdx next) (by omega)
      rw [parentOf_internal hnode, not_or] at hnone'
      exact .inl ⟨⟨hlt, fun p hplt => hnone p (by omega)⟩, Ne.symm hnone'.1, Ne.symm hnone'.2⟩
    · exact .inr rfl
  · rintro (⟨⟨hj, hnone⟩, hjl, hjr⟩ | rfl)
    · refine ⟨by omega, fun p hplt => ?_⟩
      rcases val_lt_succ hnext hplt with hlt | rfl
      · exact hnone p hlt
      · rw [parentOf_internal hnode]
        exact fun h => h.elim (fun h => hjl h.symm) fun h => hjr h.symm
    · refine ⟨by omega, fun p hplt hpar => ?_⟩
      rcases val_lt_succ hnext hplt with hlt | rfl
      · have := hp.child_lt hlt hpar
        omega
      · have hchild : ∀ i : NodeIdx, WaitingAt A next i → i ≠ nodeIdx next := fun i hi he => by
          have := hi.1
          rw [he] at this
          omega
        rcases (parentOf_internal hnode _).1 hpar with he | he
        · exact hchild _ hlwait he
        · exact hchild _ hrwait he

/-- No entry has a parent below `next` and the new entry as another. -/
theorem Progress.parent_succ {j p q : NodeIdx} (hpl : p.val < next + 1) (hql : q.val < next + 1)
    (hpj : ParentOf A p j) (hqj : ParentOf A q j) : p = q := by
  have hwaited (hj : ParentOf A (nodeIdx next) j) : ∀ p : NodeIdx, p.val < next → ¬ ParentOf A p j := by
    obtain ⟨⟨-, hlwait⟩, -, hrwait⟩ := hp.popped hperm
    rcases (parentOf_internal hnode j).1 hj with rfl | rfl
    · exact hlwait.2
    · exact hrwait.2
  rcases val_lt_succ hnext hpl with hp' | rfl <;> rcases val_lt_succ hnext hql with hq' | rfl
  · exact hp.parent j p q hp' hq' hpj hqj
  · exact absurd hpj (hwaited hqj p hp')
  · exact absurd hqj (hwaited hpj q hq')
  · rfl

end Round

/-- One round of BuildTree's loop. -/
theorem Progress.mergeTwo (hp : Progress A n total next h) {node : Node} {h' : Heap}
    (hm : mergeTwo h next = .ok (node, h')) (hnode : A[nodeIdx next] = node) (hnext : next < 511)
    (htotal : total < 2 ^ 32) : Progress A n total (next + 1) h' := by
  obtain ⟨l, r, h2, hperm, hperm', hheap, hl, hr, rfl⟩ := mergeTwo_pops hp.heap hm
  have hv := val_nodeIdx hnext
  have hsum := hp.popped_sum hperm
  have hkey := hp.key_new hperm hnode htotal
  refine
    { heap := hheap, nodup := ?nodup, mem := fun k => ?mem, sum := ?sum, bound := fun j hj => ?bound, leaf := hp.leaf,
      internal := fun j hnj hj => ?internal
      parent := fun j p q hpl hql => hp.parent_succ hnext hperm hnode hpl hql }
  case nodup =>
    have hnodup2 : h2.Nodup := (List.nodup_cons.1 (List.nodup_cons.1 (hperm.nodup_iff.1 hp.nodup)).2).2
    refine hperm'.nodup_iff.2 (List.nodup_cons.2 ⟨fun hmem => ?_, hnodup2⟩)
    have hlt : (nodeIdx next).val < next := ((hp.mem_rest hperm _).1 hmem).2.1.1
    omega
  case mem =>
    rw [hperm'.mem_iff, List.mem_cons, hp.mem_rest hperm, hp.waitingAt_succ hnext hperm hnode]
    constructor
    · rintro (rfl | ⟨hk, hw⟩)
      · exact ⟨hkey.symm, .inr rfl⟩
      · exact ⟨hk, .inl hw⟩
    · rintro ⟨hk, hw | hidx⟩
      · exact .inr ⟨hk, hw⟩
      · exact .inl (hk.trans (hidx ▸ hkey))
  case sum =>
    rw [(hperm'.map Key.freq).sum_eq, List.map_cons, List.sum_cons, ← hsum, Nat.add_assoc]
  case bound =>
    rcases val_lt_succ hnext hj with hlt | rfl
    · exact hp.bound j hlt
    · have hfreq : A[nodeIdx next].freq = l.freq + r.freq := congrArg Key.freq hkey
      omega
  case internal =>
    rcases val_lt_succ hnext hj with hlt | rfl
    · exact hp.internal j hnj hlt
    · exact ⟨_, _, _, hnode, hp.joins_new hnext hperm htotal hl hr⟩

end Sys2Proof.Machine
end

section
/-! PROOFS. From the first round to the last (40_datapath R140 to R142): the queue of the leaves' keys, the loop, and
what the arena is when one key is left. -/

namespace Sys2Proof.Machine

variable {A : Arena} {n total next : Nat} {h : Heap}

/-- The whole loop, for an arena that holds the nodes it makes. -/
theorem Progress.mergeAll {rounds : Nat} {nodes : List Node} {h' : Heap} (hp : Progress A n total next h)
    (hm : mergeAll rounds h next = .ok (nodes, h'))
    (hnodes : ∀ i node, nodes[i]? = some node → A[nodeIdx (next + i)] = node)
    (hnext : next + nodes.length ≤ 511) (htotal : total < 2 ^ 32) :
    Progress A n total (next + nodes.length) h' := by
  induction rounds generalizing h next nodes with
  | zero => cases hm; exact hp
  | succ rounds ih =>
    rw [Machine.mergeAll] at hm
    split at hm
    · cases htwo : Machine.mergeTwo h next with
      | error f => simp [htwo] at hm
      | ok x =>
        obtain ⟨node, h1⟩ := x
        cases hall : Machine.mergeAll rounds h1 (next + 1) with
        | error f => simp [htwo, hall] at hm
        | ok y =>
          obtain ⟨nodes1, h2⟩ := y
          simp only [htwo, hall, Except.ok.injEq, Prod.mk.injEq] at hm
          obtain ⟨rfl, rfl⟩ := hm
          rw [List.length_cons] at hnext ⊢
          have hp1 := hp.mergeTwo htwo (hnodes 0 node rfl) (by omega) htotal
          rw [show next + (nodes1.length + 1) = next + 1 + nodes1.length by omega]
          refine ih hp1 hall (fun i nd hi => ?_) (by omega)
          simpa only [Nat.add_assoc, Nat.add_comm 1] using hnodes (i + 1) nd hi
    · cases hm; exact hp

/-! ### The queue of the leaves -/

theorem keysFrom_eq_map (j : Nat) (ns : List Node) (hA : ∀ i node, ns[i]? = some node → A[nodeIdx (j + i)] = node) :
    keysFrom j ns = (List.range ns.length).map fun i => Arena.key A (nodeIdx (j + i)) := by
  induction ns generalizing j with
  | nil => rfl
  | cons m ns ih =>
    have htail := ih (j + 1) fun i node hi => by
      simpa only [Nat.add_assoc, Nat.add_comm 1] using hA (i + 1) node hi
    rw [keysFrom, htail, List.length_cons, List.range_succ_eq_map, List.map_cons, List.map_map, Arena.key,
      hA 0 m rfl]
    refine congrArg (List.cons _) (List.map_congr_left fun i _ => ?_)
    rw [Function.comp_apply, show j + 1 + i = j + (i + 1) by omega]

theorem sum_freq_keysFrom (j : Nat) (ns : List Node) : ((keysFrom j ns).map Key.freq).sum = (ns.map Node.freq).sum := by
  induction ns generalizing j with
  | nil => rfl
  | cons m ns ih => simp only [keysFrom, List.map_cons, List.sum_cons, ih]

/-- Before the first round the queue holds the keys of the leaves, which all wait. -/
theorem progress_leaves {ls : List Node} (hleaf : ∀ node ∈ ls, ∃ s f, node = .leaf s f) (hlen : ls.length ≤ 511)
    (hA : ∀ i node, ls[i]? = some node → A[nodeIdx i] = node) :
    Progress A ls.length (ls.map Node.freq).sum ls.length (Heap.build (keysFrom 0 ls)) := by
  have hperm := Heap.build_perm (keysFrom 0 ls)
  have hkeys : keysFrom 0 ls = (List.range ls.length).map fun i => Arena.key A (nodeIdx i) := by
    simpa only [Nat.zero_add] using keysFrom_eq_map (A := A) 0 ls fun i node hi => by
      simpa only [Nat.zero_add] using hA i node hi
  have hleafA (j : NodeIdx) (hj : j.val < ls.length) : ∃ s f, A[j] = .leaf s f := by
    have hget := hA j.val ls[j.val] (List.getElem?_eq_getElem hj)
    simp only [nodeIdx_val] at hget
    rw [hget]
    exact hleaf _ (List.getElem_mem hj)
  have hnoparent {p j : NodeIdx} (hlt : p.val < ls.length) : ¬ ParentOf A p j := by
    obtain ⟨s, f, hp⟩ := hleafA p hlt
    exact parentOf_leaf hp j
  have hmem (k : Key) : k ∈ Heap.build (keysFrom 0 ls) ↔ k = Arena.key A k.idx ∧ WaitingAt A ls.length k.idx := by
    rw [hperm.mem_iff, hkeys, List.mem_map]
    constructor
    · rintro ⟨i, hi, rfl⟩
      have hlt : i < ls.length := List.mem_range.1 hi
      exact ⟨rfl, by rw [Arena.key, val_nodeIdx (by omega)]; exact hlt, fun p hlt => hnoparent hlt⟩
    · rintro ⟨hk, hlt, -⟩
      exact ⟨k.idx.val, List.mem_range.2 hlt, by rw [nodeIdx_val]; exact hk.symm⟩
  have hsum : ((Heap.build (keysFrom 0 ls)).map Key.freq).sum = (ls.map Node.freq).sum := by
    rw [(hperm.map Key.freq).sum_eq, sum_freq_keysFrom]
  refine
    { heap := Heap.isHeap_build _, nodup := ?_, mem := hmem, sum := hsum, bound := fun j hj => ?_, leaf := hleafA,
      internal := fun j hn hj => absurd hj (by omega)
      parent := fun j p q hp _ hpj => absurd hpj (hnoparent hp) }
  · rw [hperm.nodup_iff, hkeys]
    refine List.Nodup.map_on (fun a ha b hb he => ?_) List.nodup_range
    have hval := congrArg (fun k : Key => k.idx.val) he
    simp only [Arena.key, List.mem_range] at hval ha hb
    rwa [val_nodeIdx (by omega), val_nodeIdx (by omega)] at hval
  · rw [← hsum]
    refine List.single_le_sum (fun _ _ => Nat.zero_le _) _ (List.mem_map.2 ⟨Arena.key A j, ?_, rfl⟩)
    exact (hmem _).2 ⟨rfl, hj, fun p hlt => hnoparent hlt⟩

/-! ### The tree when the loop is done -/

/-- The last entry made has no parent, so it is the one key left. -/
theorem Progress.root_last (hp : Progress A n total next h) {root : Key} (hroot : h = [root]) (hnext : next ≤ 511) :
    root.idx.val + 1 = next := by
  have hroot_mem : root ∈ h := by simp [hroot]
  have hlt := ((hp.mem root).1 hroot_mem).2.1
  have hlast : Arena.key A (nodeIdx (next - 1)) ∈ h := by
    have hv := val_nodeIdx (show next - 1 < 511 by omega)
    refine (hp.mem _).2 ⟨rfl, by rw [Arena.key, hv]; omega, fun p hplt hpar => ?_⟩
    have hchild := hp.child_lt hplt hpar
    rw [Arena.key, hv] at hchild
    omega
  rw [hroot, List.mem_singleton] at hlast
  rw [← hlast, Arena.key, val_nodeIdx (by omega)]
  omega

/-- Every entry but the root is a child. -/
theorem Progress.has_parent (hp : Progress A n total next h) {root : Key} (hroot : h = [root]) (hnext : next ≤ 511)
    {j : NodeIdx} (hj : j < root.idx) : ∃ p : NodeIdx, p.val < next ∧ ParentOf A p j := by
  by_contra hnone
  push Not at hnone
  have hlast := hp.root_last hroot hnext
  have hj_val : j.val < root.idx.val := hj
  have hmem : Arena.key A j ∈ h := (hp.mem _).2 ⟨rfl, show j.val < next by omega, hnone⟩
  rw [hroot, List.mem_singleton] at hmem
  rw [← hmem] at hj
  exact absurd hj (lt_irrefl j)

/-- What the loop answers for a table with a present symbol: the nodes it makes and the one key left. -/
theorem buildFrom_eq_merge {F : Table Word} {b : Built} (hne : present F ≠ []) (hb : buildFrom F total = .ok b) :
    ∃ nodes root, mergeAll (present F).length (Heap.build (keysFrom 0 (leaves F))) (present F).length =
        .ok (nodes, [root]) ∧ nodes.length + 1 = (present F).length ∧
      b = { arena := arenaOf (leaves F ++ nodes), root := root.idx, count := (present F).length, total := total } := by
  have hpos : 1 ≤ (present F).length := List.length_pos_iff.2 hne
  obtain ⟨nodes, q, hm, hq, hn⟩ := mergeAll_ok (present F).length (Heap.build (keysFrom 0 (leaves F)))
    (present F).length (by simpa using hpos) (by simp)
  obtain ⟨root, rfl⟩ := List.length_eq_one_iff.1 hq
  refine ⟨nodes, root, hm, by simpa using hn, ?_⟩
  unfold buildFrom at hb
  simp only [length_leaves] at hb
  split at hb
  · rename_i hone
    obtain ⟨node, hleaves⟩ := List.length_eq_one_iff.1 ((length_leaves F).trans hone)
    rw [hone, hleaves] at hm
    have hroot : mergeAll 1 (Heap.build (keysFrom 0 [node])) 1 =
        .ok ([], [{ freq := node.freq, idx := nodeIdx 0 }]) := by
      simp [mergeAll, keysFrom, Heap.build, Heap.heapify]
    rw [hroot] at hm
    cases hm
    cases hb
    rw [List.append_nil, hone]
  · rw [hm] at hb
    cases hb
    rfl

/-- An entry of the arena BuildTree makes: a leaf, a node of the loop, or unused. -/
theorem getElem?_leaves (F : Table Word) (j : Nat) :
    (leaves F)[j]? = (present F)[j]?.map fun s => .leaf s (Table.at F s) := List.getElem?_map ..

theorem sum_freq_leaves (F : Table Word) : ((leaves F).map Node.freq).sum = freqSum F (present F) := by
  rw [leaves, List.map_map]
  rfl

/-- What is known of a built tree when the loop is done. -/
theorem buildTree_progress {F : Table Word} {b : Built} (hb : buildTree F = .ok b) :
    ∃ root, Progress b.arena (present F).length (freqSum F allSymbols) (2 * (present F).length - 1) [root] ∧
      b.root = root.idx ∧ b.count = (present F).length ∧ b.total = freqSum F allSymbols ∧
      (∀ j s, (present F)[j]? = some s → b.arena[nodeIdx j] = .leaf s (Table.at F s)) ∧
      (∀ j : NodeIdx, 2 * (present F).length ≤ j.val + 1 → b.arena[j] = .unused) := by
  obtain ⟨hlegal, hne, hfrom⟩ := buildTree_ok_iff.1 hb
  have hpos : 0 < (present F).length := List.length_pos_iff.2 hne
  have hle := length_present_le F
  obtain ⟨nodes, root, hmerge, hnodes, rfl⟩ := buildFrom_eq_merge hne hfrom
  have hentry {i : Nat} (hi : i < 511) :
      (arenaOf (leaves F ++ nodes))[nodeIdx i] = ((leaves F ++ nodes)[i]?).getD Node.unused := by
    rw [getElem_arenaOf, val_nodeIdx hi]
  have hleaves {i : Nat} {node : Node} (hi : (leaves F)[i]? = some node) :
      (arenaOf (leaves F ++ nodes))[nodeIdx i] = node := by
    have hlt := (List.getElem?_eq_some_iff.1 hi).1
    rw [length_leaves] at hlt
    rw [hentry (by omega), List.getElem?_append_left (by simpa using hlt), hi, Option.getD_some]
  have hstart : Progress (arenaOf (leaves F ++ nodes)) (present F).length (freqSum F allSymbols) (present F).length
      (Heap.build (keysFrom 0 (leaves F))) := by
    have := progress_leaves (A := arenaOf (leaves F ++ nodes)) (ls := leaves F)
      (fun node hnode => by obtain ⟨s, _, rfl⟩ := List.mem_map.1 hnode; exact ⟨_, _, rfl⟩)
      (by rw [length_leaves]; omega) (fun i node => hleaves)
    rwa [length_leaves, sum_freq_leaves, freqSum_present] at this
  refine ⟨root, ?_, rfl, rfl, rfl, fun j s hj => hleaves (by rw [getElem?_leaves, hj]; rfl), fun j hj => ?_⟩
  · rw [show 2 * (present F).length - 1 = (present F).length + nodes.length by omega]
    refine hstart.mergeAll hmerge (fun i node hi => ?_) (by omega) (Nat.lt_of_le_of_lt hlegal.2 (by decide))
    have hlt := (List.getElem?_eq_some_iff.1 hi).1
    rw [hentry (by omega), List.getElem?_append_right (by simp), length_leaves, Nat.add_sub_cancel_left, hi,
      Option.getD_some]
  · rw [getElem_arenaOf, List.getElem?_eq_none (by simp; omega), Option.getD_none]

/-- Settles O31: what the loop keeps, read off when one key is left. -/
theorem builtTreeHasItsShape : Obligations.BuiltTreeHasItsShape := by
  unfold Obligations.BuiltTreeHasItsShape
  intro F b hb
  obtain ⟨root, hp, hroot, hcount, htotal, hleaves, hunused⟩ := buildTree_progress hb
  obtain ⟨hlegal, hne, -⟩ := buildTree_ok_iff.1 hb
  have hpos : 0 < (present F).length := List.length_pos_iff.2 hne
  have hle := length_present_le F
  have hlast := hp.root_last rfl (by omega)
  have hbelow {p j : NodeIdx} (hpar : ParentOf b.arena p j) : p.val < 2 * (present F).length - 1 := by
    by_contra hge
    exact parentOf_leaf (hunused p (by omega)) j hpar
  refine
    { leavesFirst := fun j s hj => by simpa only [nodeIdx_val] using hleaves j.val s hj
      internalNext := fun j hn hj => ?internalNext
      joinsLeast := fun j f l r hint => ?joinsLeast
      unusedLast := hunused
      rootLast := by rw [hroot]; omega
      oneParent := fun j hj => ?oneParent
      count := hcount
      total := htotal
      rootFreq := ?rootFreq
      freqBound := fun j => ?freqBound
      totalBound := htotal ▸ hlegal.2 }
  case internalNext =>
    obtain ⟨f, l, r, hint, hjoins⟩ := hp.internal j hn (by omega)
    exact ⟨f, l, r, hint, hjoins.left.1, hjoins.right.1, hjoins.ne, hjoins.freq⟩
  case joinsLeast =>
    obtain ⟨-, hjoins⟩ := hp.joins (hbelow ((parentOf_internal hint l).2 (.inl rfl))) hint
    exact ⟨hjoins.left, hjoins.right, hjoins.ordered, hjoins.least⟩
  case oneParent =>
    rw [hroot] at hj
    obtain ⟨p, hplt, hpar⟩ := hp.has_parent rfl (by omega) hj
    exact ⟨p, hpar, fun q hq => hp.parent j q p (hbelow hq) hplt hq hpar⟩
  case rootFreq =>
    have hkey := ((hp.mem root).1 (List.mem_singleton_self root)).1
    have hsum := hp.sum
    rw [List.map_singleton, List.sum_singleton, hkey] at hsum
    simp only [hroot, htotal]
    exact hsum
  case freqBound =>
    by_cases hj : j.val < 2 * (present F).length - 1
    · rw [htotal]
      exact hp.bound j hj
    · rw [hunused j (by omega)]
      exact Nat.zero_le _

end Sys2Proof.Machine
end

section
/-! PROOFS. Paths in a built tree (40_datapath R142, R150): every entry is below the root, subtrees do not meet, and a
path from an entry is at most as long as there are internal nodes below. -/

namespace Sys2Proof.Machine

/-- Entry `i` is `j` or lies below it. -/
def Below (A : Arena) (i j : NodeIdx) : Prop := Relation.ReflTransGen (fun c p => ParentOf A p c) i j

/-- Below an entry stands the leaf of a symbol exactly if a path leads from the entry to it. -/
theorem exists_leafAt_iff {A : Arena} {j : NodeIdx} {x : Byte} :
    (∃ q, LeafAt A j q x) ↔ ∃ i f, Below A i j ∧ A[i] = .leaf x f := by
  constructor
  · rintro ⟨q, hq⟩
    induction q generalizing j with
    | nil =>
      cases hj : A[j] with
      | leaf s f => exact ⟨j, f, .refl, by rw [hj, ((leafAt_leaf hj [] x).1 hq).2]⟩
      | internal f l r => obtain ⟨_, _, he, _⟩ := (leafAt_internal hj [] x).1 hq; cases he
    | cons b q ih =>
      cases hj : A[j] with
      | leaf s f => cases ((leafAt_leaf hj (b :: q) x).1 hq).1
      | internal f l r =>
        obtain ⟨_, _, he, hq'⟩ := (leafAt_internal hj (b :: q) x).1 hq
        cases he
        obtain ⟨i, f', hi, hleaf⟩ := ih hq'
        refine ⟨i, f', hi.tail ((parentOf_internal hj _).2 ?_), hleaf⟩
        cases b
        · exact .inl rfl
        · exact .inr rfl
  · rintro ⟨i, f, hi, hleaf⟩
    induction hi with
    | refl => exact ⟨[], (leafAt_leaf hleaf [] x).2 ⟨rfl, rfl⟩⟩
    | tail _ hpar ih =>
      obtain ⟨q, hq⟩ := ih
      obtain ⟨f', l, r, hint, rfl | rfl⟩ := hpar.internal
      · exact ⟨false :: q, (leafAt_internal hint _ x).2 ⟨false, q, rfl, hq⟩⟩
      · exact ⟨true :: q, (leafAt_internal hint _ x).2 ⟨true, q, rfl, hq⟩⟩

/-- A path to a leaf that begins with another path to a leaf is that path. -/
theorem leafAt_append {A : Arena} {j : NodeIdx} {p t : Bits} {x y : Byte} (hx : LeafAt A j p x)
    (hy : LeafAt A j (p ++ t) y) : t = [] ∧ x = y := by
  induction p generalizing j with
  | nil =>
    cases hj : A[j] with
    | leaf s f =>
      obtain ⟨-, rfl⟩ := (leafAt_leaf hj [] x).1 hx
      exact (leafAt_leaf hj ([] ++ t) y).1 hy
    | internal f l r => obtain ⟨_, _, he, _⟩ := (leafAt_internal hj [] x).1 hx; cases he
  | cons b p ih => exact ih (leafAt_child hx) (leafAt_child hy)

section Tree

variable {F : Table Word} {b : Built} (ht : TreeOf F b)

include ht

theorem TreeOf.present_pos : 0 < (present F).length := by
  have := ht.rootLast
  omega

/-- Where the internal nodes stand, and their children. -/
theorem TreeOf.of_internal {j l r : NodeIdx} {f : Word} (hint : b.arena[j] = .internal f l r) :
    (present F).length ≤ j.val ∧ j ≤ b.root ∧ l < j ∧ r < j ∧ l ≠ r := by
  have hroot := ht.rootLast
  have hle : (present F).length ≤ j.val := by
    by_contra hlt
    rw [ht.leavesFirst j _ (List.getElem?_eq_getElem (by omega))] at hint
    cases hint
  have hlast : j.val + 1 < 2 * (present F).length := by
    by_contra hge
    rw [ht.unusedLast j (by omega)] at hint
    cases hint
  obtain ⟨f', l', r', hint', hl, hr, hne, -⟩ := ht.internalNext j hle hlast
  rw [hint] at hint'
  cases hint'
  exact ⟨hle, Fin.le_def.2 (by omega), hl, hr, hne⟩

/-- Where the leaves stand, and their symbols. -/
theorem TreeOf.of_leaf {j : NodeIdx} {s : Byte} {f : Word} (hleaf : b.arena[j] = .leaf s f) (hj : j ≤ b.root) :
    (present F)[j.val]? = some s := by
  have hroot := ht.rootLast
  have hj_val : j.val ≤ b.root.val := hj
  have hlt : j.val < (present F).length := by
    by_contra hge
    obtain ⟨f', l, r, hint, -⟩ := ht.internalNext j (by omega) (by omega)
    rw [hleaf] at hint
    cases hint
  have hget := List.getElem?_eq_getElem hlt
  rw [ht.leavesFirst j _ hget] at hleaf
  cases hleaf
  exact hget

theorem TreeOf.parent_bounds {p j : NodeIdx} (hpar : ParentOf b.arena p j) : j < p ∧ p ≤ b.root := by
  obtain ⟨f, l, r, hint, rfl | rfl⟩ := hpar.internal
  · exact ⟨(ht.of_internal hint).2.2.1, (ht.of_internal hint).2.1⟩
  · exact ⟨(ht.of_internal hint).2.2.2.1, (ht.of_internal hint).2.1⟩

theorem TreeOf.parent_unique {p q j : NodeIdx} (hp : ParentOf b.arena p j) (hq : ParentOf b.arena q j) : p = q := by
  obtain ⟨hlt, hle⟩ := ht.parent_bounds hp
  obtain ⟨_, _, honly⟩ := ht.oneParent j (lt_of_lt_of_le hlt hle)
  rw [honly p hp, honly q hq]

theorem TreeOf.below_le {i j : NodeIdx} (h : Below b.arena i j) : i ≤ j := by
  induction h with
  | refl => exact le_refl i
  | tail _ hpar ih => exact ih.trans (ht.parent_bounds hpar).1.le

/-- Every entry up to the root is below it. -/
theorem TreeOf.below_root (j : NodeIdx) (hj : j ≤ b.root) : Below b.arena j b.root := by
  induction hd : b.root.val - j.val using Nat.strong_induction_on generalizing j with
  | _ d ih =>
    rcases hj.eq_or_lt with rfl | hlt
    · exact .refl
    · obtain ⟨p, hpar, -⟩ := ht.oneParent j hlt
      obtain ⟨hjp, hp⟩ := ht.parent_bounds hpar
      have hjp_val : j.val < p.val := hjp
      have hp_val : p.val ≤ b.root.val := hp
      exact .head hpar (ih _ (by omega) p hp rfl)

/-- The subtrees of a node's two children have no entry in common. -/
theorem TreeOf.disjoint {i j l r : NodeIdx} {f : Word} (hint : b.arena[j] = .internal f l r)
    (hl : Below b.arena i l) (hr : Below b.arena i r) : False := by
  have hunique : Relator.RightUnique fun c p => ParentOf b.arena p c := fun _ _ _ => ht.parent_unique
  obtain ⟨-, -, hlj, hrj, hne⟩ := ht.of_internal hint
  have hchild (k k' : NodeIdx) (hk : ParentOf b.arena j k) (hne : k ≠ k') (hk' : k' < j)
      (h : Below b.arena k k') : False := by
    rcases Relation.ReflTransGen.cases_head h with he | ⟨p, hpar, hup⟩
    · exact hne he
    · rw [ht.parent_unique hpar hk] at hup
      exact absurd (ht.below_le hup) (not_le.2 hk')
  rcases Relation.ReflTransGen.total_of_right_unique hunique hl hr with h | h
  · exact hchild l r ((parentOf_internal hint l).2 (.inl rfl)) hne hrj h
  · exact hchild r l ((parentOf_internal hint r).2 (.inr rfl)) hne.symm hlj h

/-- A symbol has one leaf, so no path leads to it from both children of a node. -/
theorem TreeOf.leafAt_disjoint {j l r : NodeIdx} {f : Word} (hint : b.arena[j] = .internal f l r) {x : Byte}
    {p q : Bits} (hl : LeafAt b.arena l p x) (hr : LeafAt b.arena r q x) : False := by
  obtain ⟨-, hj, hlj, hrj, -⟩ := ht.of_internal hint
  obtain ⟨i, f1, hi, hleaf⟩ := exists_leafAt_iff.1 ⟨p, hl⟩
  obtain ⟨i', f2, hi', hleaf'⟩ := exists_leafAt_iff.1 ⟨q, hr⟩
  have hget := ht.of_leaf hleaf ((ht.below_le hi).trans (hlj.le.trans hj))
  have hget' := ht.of_leaf hleaf' ((ht.below_le hi').trans (hrj.le.trans hj))
  have hval : i.val = i'.val :=
    (List.getElem?_inj (List.getElem?_eq_some_iff.1 hget).1 (present_nodup F)).1 (hget.trans hget'.symm)
  rw [← Fin.ext hval] at hi'
  exact ht.disjoint hint hi hi'

/-- The symbols a path leads to from the root are the present ones. -/
theorem TreeOf.exists_leafAt_root {x : Byte} : (∃ q, LeafAt b.arena b.root q x) ↔ x ∈ present F := by
  rw [exists_leafAt_iff]
  constructor
  · rintro ⟨i, f, hi, hleaf⟩
    exact List.mem_of_getElem? (ht.of_leaf hleaf (ht.below_le hi))
  · intro hx
    obtain ⟨i, hi⟩ := List.getElem?_of_mem hx
    have hlt := (List.getElem?_eq_some_iff.1 hi).1
    have hle := length_present_le F
    have hv := val_nodeIdx (show i < 511 by omega)
    refine ⟨nodeIdx i, _, ht.below_root _ (Fin.le_def.2 ?_), ht.leavesFirst _ x (by rw [hv]; exact hi)⟩
    have := ht.rootLast
    omega

/-- A path passes through ever earlier internal nodes, so its length is bounded by their number. -/
theorem TreeOf.length_path {j : NodeIdx} {q : Bits} {x : Byte} (hq : LeafAt b.arena j q x) :
    q.length ≤ j.val + 1 - (present F).length := by
  induction q generalizing j with
  | nil => exact Nat.zero_le _
  | cons c q ih =>
    cases hj : b.arena[j] with
    | leaf s f => cases ((leafAt_leaf hj (c :: q) x).1 hq).1
    | internal f l r =>
      obtain ⟨hn, -, hl, hr, -⟩ := ht.of_internal hj
      have hnext := ih (leafAt_child hq)
      have hlt : (child b.arena j c).val < j.val := by
        rw [child_internal hj]
        cases c
        · exact hl
        · exact hr
      rw [List.length_cons]
      omega

/-- With one symbol the root is its leaf; with two or more it is an internal node. -/
theorem TreeOf.root_leaf {x : Byte} (hx : present F = [x]) : b.arena[b.root] = .leaf x (Table.at F x) := by
  have hroot := ht.rootLast
  rw [hx] at hroot
  refine ht.leavesFirst b.root x ?_
  rw [hx, show b.root.val = 0 by simpa using hroot]
  rfl

theorem TreeOf.root_internal (h2 : 2 ≤ (present F).length) : ∃ f l r, b.arena[b.root] = .internal f l r := by
  have hroot := ht.rootLast
  obtain ⟨f, l, r, hint, -⟩ := ht.internalNext b.root (by omega) (by omega)
  exact ⟨f, l, r, hint⟩

end Tree

end Sys2Proof.Machine
end

section
/-! PROOFS. What Visit writes (40_datapath R150): no fault in a built tree, a code for every symbol below, zero bits
past a code, and the Kraft sum (R152). -/

namespace Sys2Proof.Machine

/-! ### The code table -/

/-- The bits past each code are 0 (10_state R51). -/
def Codes.ZeroPast (c : Codes) : Prop :=
  ∀ (x : Byte) (j : Nat), (Table.at c.len x).toNat ≤ j → (Table.at c.bits x).getLsbD j = false

theorem Codes.zeroPast_empty : Codes.empty.ZeroPast := fun x j _ => by
  rw [at_bits_empty, BitVec.getLsbD_zero]

theorem Codes.ZeroPast.record {c : Codes} (h : c.ZeroPast) (s : Byte) {p : Bits} (hp : p.length < 256) :
    (c.record s p).ZeroPast := by
  intro x j hj
  by_cases hx : x = s
  · subst hx
    have hlen : p.length ≤ j := by
      rwa [at_len_record_same, show (BitVec.ofNat 8 p.length).toNat = p.length from Nat.mod_eq_of_lt hp] at hj
    rw [at_bits_record_same, BitVec.getLsbD_ofNat, testBit_bitsNat, List.getD_eq_default _ _ hlen, Bool.and_false]
  · rw [at_len_record_other _ _ hx] at hj
    rw [at_bits_record_other _ _ hx]
    exact h x j hj

/-- A symbol's summand of the Kraft sum. -/
def kraftTerm (c : Codes) (s : Byte) : Nat :=
  if Table.at c.len s = 0#8 then 0 else 2 ^ (255 - (Table.at c.len s).toNat)

theorem Codes.kraft_eq (c : Codes) : c.kraft = (allSymbols.map (kraftTerm c)).sum := rfl

theorem Codes.kraft_empty : Codes.empty.kraft = 0 := by
  rw [kraft_eq, List.sum_eq_zero_iff]
  intro v hv
  obtain ⟨s, -, rfl⟩ := List.mem_map.1 hv
  rw [kraftTerm, if_pos (at_len_empty s)]

/-- A new code adds its own summand. -/
theorem Codes.kraft_record {c : Codes} {s : Byte} {p : Bits} (hfresh : Table.at c.len s = 0#8) (hne : p ≠ [])
    (hp : p.length < 256) : (c.record s p).kraft = c.kraft + 2 ^ (255 - p.length) := by
  have hlen : (BitVec.ofNat 8 p.length).toNat = p.length := Nat.mod_eq_of_lt hp
  have hnz : BitVec.ofNat 8 p.length ≠ 0#8 := fun h => by
    rw [h] at hlen
    exact hne (List.length_eq_zero_iff.1 hlen.symm)
  have hterm (x : Byte) : kraftTerm (c.record s p) x = kraftTerm c x + if x = s then 2 ^ (255 - p.length) else 0 := by
    by_cases hx : x = s
    · subst hx
      simp only [kraftTerm, at_len_record_same, if_neg hnz, hfresh, hlen, if_true, Nat.zero_add]
    · simp only [kraftTerm, at_len_record_other _ _ hx, if_neg hx, Nat.add_zero]
  have hone : (allSymbols.map fun x => if x = s then 2 ^ (255 - p.length) else 0).sum = 2 ^ (255 - p.length) := by
    rw [List.sum_map_eq_nsmul_single s _ fun x hx _ => if_neg hx,
      List.count_eq_one_of_mem allSymbols_nodup (mem_allSymbols s), one_nsmul, if_pos rfl]
  rw [kraft_eq, kraft_eq, List.map_congr_left fun x _ => hterm x, List.sum_map_add, hone]

theorem foldl_max_spec {α : Type} (f : α → Nat) (l : List α) (m : Nat) :
    m ≤ l.foldl (fun m a => max m (f a)) m ∧ (∀ a ∈ l, f a ≤ l.foldl (fun m a => max m (f a)) m) ∧
      (l.foldl (fun m a => max m (f a)) m = m ∨ ∃ a ∈ l, f a = l.foldl (fun m a => max m (f a)) m) := by
  induction l generalizing m with
  | nil => simp
  | cons a l ih =>
    obtain ⟨hm, hall, hatt⟩ := ih (max m (f a))
    rw [List.foldl_cons, List.forall_mem_cons]
    refine ⟨(le_max_left ..).trans hm, ⟨(le_max_right ..).trans hm, hall⟩, ?_⟩
    rcases hatt with he | ⟨a', ha', he⟩
    · rw [he]
      rcases le_total m (f a) with h | h
      · exact .inr ⟨a, List.mem_cons_self, (max_eq_right h).symm⟩
      · exact .inl (max_eq_left h)
    · exact .inr ⟨a', List.mem_cons_of_mem _ ha', he⟩

/-- MAXLEN is the largest code length, and some symbol has it. -/
theorem Codes.maxLen_spec (c : Codes) :
    (∀ x : Byte, (Table.at c.len x).toNat ≤ c.maxLen) ∧ (∃ x : Byte, (Table.at c.len x).toNat = c.maxLen) ∧
      c.maxLen ≤ 255 := by
  obtain ⟨-, hall, hatt⟩ := foldl_max_spec BitVec.toNat c.len.toList 0
  have hmax (x : Byte) : (Table.at c.len x).toNat ≤ c.maxLen :=
    hall _ (Vector.mem_toList_iff.2 (Vector.getElem_mem x.isLt))
  have hone : ∃ x : Byte, (Table.at c.len x).toNat = c.maxLen := by
    rcases hatt with he | ⟨l, hl, he⟩
    · exact ⟨0#8, Nat.le_antisymm (hmax _) (by rw [show c.maxLen = 0 from he]; exact Nat.zero_le _)⟩
    · obtain ⟨i, hi, rfl⟩ := List.getElem_of_mem hl
      have hi256 : i < 256 := by simpa using hi
      refine ⟨BitVec.ofNat 8 i, Eq.trans ?_ he⟩
      simp [Table.at, Nat.mod_eq_of_lt hi256]
  obtain ⟨x, hx⟩ := hone
  exact ⟨hmax, ⟨x, hx⟩, by have := (Table.at c.len x).isLt; omega⟩

/-! ### Visit -/

variable {A : Arena}

/-- What every `record` keeps, Visit keeps; the depth left bounds the codes recorded. -/
theorem visit_keeps {P : Codes → Prop} (hrecord : ∀ c s p, p.length < 256 → P c → P (Codes.record c s p)) {depth : Nat}
    {j : NodeIdx} {p : Bits} {c c' : Codes} (hv : visit A depth j p c = .ok c') (hroom : p.length + depth ≤ 256)
    (hc : P c) : P c' := by
  induction depth generalizing j p c c' with
  | zero => simp [visit] at hv
  | succ depth ih =>
    cases hj : A[j] with
    | leaf s f =>
      rw [visit_leaf hj, Except.ok.injEq] at hv
      exact hv ▸ hrecord c s p (by omega) hc
    | internal f l r =>
      obtain ⟨c₁, hl, hr⟩ := visit_internal hj hv
      exact ih hr (by simp; omega) (ih hl (by simp; omega) hc)

/-- Visit gives every symbol with a leaf below a code through the entry visited. -/
theorem visit_covers {depth : Nat} {j : NodeIdx} {p q : Bits} {c c' : Codes} {x : Byte}
    (hv : visit A depth j p c = .ok c') (hroom : p.length + depth ≤ 256) (hq : LeafAt A j q x) :
    ∃ q', c'.code x = p ++ q' ∧ LeafAt A j q' x := by
  induction depth generalizing j p q c c' with
  | zero => simp [visit] at hv
  | succ depth ih =>
    cases hj : A[j] with
    | leaf s f =>
      obtain ⟨rfl, rfl⟩ := (leafAt_leaf hj q x).1 hq
      rw [visit_leaf hj, Except.ok.injEq] at hv
      exact ⟨[], by rw [← hv, Codes.code_record_same c s (by omega), List.append_nil], hq⟩
    | internal f l r =>
      obtain ⟨c₁, hl, hr⟩ := visit_internal hj hv
      obtain ⟨b, q₁, rfl, hq₁⟩ := (leafAt_internal hj q x).1 hq
      have hroom' (b : Bool) : (p ++ [b]).length + depth ≤ 256 := by simp; omega
      have below (b : Bool) {q : Bits} {d : Codes} (hcode : d.code x = p ++ [b] ++ q)
          (hq : LeafAt A (if b then r else l) q x) : ∃ q', d.code x = p ++ q' ∧ LeafAt A j q' x :=
        ⟨b :: q, by simp [hcode], (leafAt_internal hj _ _).2 ⟨b, q, rfl, hq⟩⟩
      rcases visit_code hr (hroom' true) x with hkept | ⟨q₂, hq₂, hcode⟩
      · cases b
        · obtain ⟨q₂, hcode, hq₂⟩ := ih hl (hroom' false) hq₁
          exact below false (hkept.trans hcode) hq₂
        · obtain ⟨q₂, hcode, hq₂⟩ := ih hr (hroom' true) hq₁
          exact below true hcode hq₂
      · exact below true hcode hq₂

section Tree

variable {F : Table Word} {b : Built} (ht : TreeOf F b)

include ht

/-- In a built tree Visit ends before its levels are used up. -/
theorem TreeOf.visit_ok {depth : Nat} {j : NodeIdx} (hpos : 0 < depth)
    (hdepth : j.val + 2 ≤ depth + (present F).length) (p : Bits) (c : Codes) :
    ∃ c', visit b.arena depth j p c = .ok c' := by
  induction depth generalizing j p c with
  | zero => exact absurd hpos (lt_irrefl 0)
  | succ depth ih =>
    cases hj : b.arena[j] with
    | leaf s f => exact ⟨_, visit_leaf hj depth p c⟩
    | internal f l r =>
      obtain ⟨hn, -, hl, hr, -⟩ := ht.of_internal hj
      have hl_val : l.val < j.val := hl
      have hr_val : r.val < j.val := hr
      obtain ⟨c₁, h₁⟩ := ih (j := l) (by omega) (by omega) (p ++ [false]) c
      obtain ⟨c₂, h₂⟩ := ih (j := r) (by omega) (by omega) (p ++ [true]) c₁
      exact ⟨c₂, by simp only [visit, hj, h₁, h₂]⟩

theorem TreeOf.genCodes_ok : ∃ c, genCodes b.arena b.root = .ok c := by
  cases hroot : b.arena[b.root] with
  | leaf s f => exact ⟨_, genCodes_leaf hroot⟩
  | internal f l r =>
    rw [genCodes_internal hroot]
    have := ht.rootLast
    have := length_present_le F
    exact ht.visit_ok (by decide) (by omega) [] Codes.empty

/-- Visit of an entry below which no symbol is coded yet adds to the Kraft sum what a code that ends there would. -/
theorem TreeOf.visit_kraft {depth : Nat} {j : NodeIdx} {p : Bits} {c c' : Codes}
    (hv : visit b.arena depth j p c = .ok c') (hroom : p.length + depth ≤ 256)
    (hp : p ≠ [] ∨ ∃ f l r, b.arena[j] = .internal f l r)
    (hfresh : ∀ x q, LeafAt b.arena j q x → Table.at c.len x = 0#8) :
    c'.kraft = c.kraft + 2 ^ (255 - p.length) := by
  induction depth generalizing j p c c' with
  | zero => simp [visit] at hv
  | succ depth ih =>
    cases hj : b.arena[j] with
    | leaf s f =>
      rw [visit_leaf hj, Except.ok.injEq] at hv
      have hne : p ≠ [] := hp.resolve_right fun ⟨_, _, _, hint⟩ => by rw [hj] at hint; cases hint
      rw [← hv, Codes.kraft_record (hfresh s [] ((leafAt_leaf hj [] s).2 ⟨rfl, rfl⟩)) hne (by omega)]
    | internal f l r =>
      obtain ⟨c₁, hl, hr⟩ := visit_internal hj hv
      have hroom' (b : Bool) : (p ++ [b]).length + depth ≤ 256 := by simp; omega
      have hleft := ih hl (hroom' false) (.inl (by simp)) fun x q hq =>
        hfresh x (false :: q) ((leafAt_internal hj _ x).2 ⟨false, q, rfl, hq⟩)
      have hright := ih hr (hroom' true) (.inl (by simp)) fun x q hq => by
        rcases visit_code hl (hroom' false) x with hkept | ⟨q', hq', -⟩
        · refine Codes.code_eq_nil.1 (hkept.trans (Codes.code_eq_nil.2 ?_))
          exact hfresh x (true :: q) ((leafAt_internal hj _ x).2 ⟨true, q, rfl, hq⟩)
        · exact (ht.leafAt_disjoint hj hq' hq).elim
      have hdepth : 0 < depth := by
        rcases Nat.eq_zero_or_pos depth with rfl | h
        · simp [visit] at hl
        · exact h
      have hlen (b : Bool) : (p ++ [b]).length = p.length + 1 := by simp
      rw [hlen] at hleft hright
      rw [hright, hleft, Nat.add_assoc, ← Nat.two_mul, ← Nat.pow_succ',
        show (255 - (p.length + 1)).succ = 255 - p.length by omega]

end Tree

end Sys2Proof.Machine
end

section
/-! PROOFS. The codes of a built tree (40_datapath R150 to R152). -/

namespace Sys2Proof.Machine

section Tree

variable {F : Table Word} {b : Built} {c : Codes} (ht : TreeOf F b) (hgen : genCodes b.arena b.root = .ok c)

include ht hgen

/-- With two symbols or more each present symbol's code is the path to its leaf. -/
theorem TreeOf.code_path (h2 : 2 ≤ (present F).length) {x : Byte} (hx : x ∈ present F) :
    LeafAt b.arena b.root (c.code x) x := by
  obtain ⟨f, l, r, hroot⟩ := ht.root_internal h2
  obtain ⟨q, hq⟩ := ht.exists_leafAt_root.2 hx
  rw [genCodes_internal hroot] at hgen
  obtain ⟨q', hcode, hq'⟩ := visit_covers hgen (by decide) hq
  rwa [hcode, List.nil_append]

theorem TreeOf.code_single {x : Byte} (hx : present F = [x]) : c = Codes.empty.record x [false] := by
  rw [genCodes_leaf (ht.root_leaf hx)] at hgen
  exact (Except.ok.inj hgen).symm

/-- Exactly the present symbols have codes. -/
theorem TreeOf.coded_iff (x : Byte) : Table.at c.len x ≠ 0#8 ↔ x ∈ present F := by
  rcases Nat.lt_or_ge (present F).length 2 with h1 | h2
  · obtain ⟨y, hy⟩ := List.length_eq_one_iff.1 (show (present F).length = 1 from by have := ht.present_pos; omega)
    rw [ht.code_single hgen hy, hy, List.mem_singleton]
    by_cases hxy : x = y
    · subst hxy
      simp
    · simp [Codes.at_len_record_other _ _ hxy, hxy]
  · obtain ⟨f, l, r, hroot⟩ := ht.root_internal h2
    constructor
    · intro hx
      exact ht.exists_leafAt_root.1 ⟨_, leafAt_of_genCodes hroot hgen hx⟩
    · intro hx hzero
      have hpath := ht.code_path hgen h2 hx
      rw [Codes.code_eq_nil.2 hzero, leafAt_internal hroot] at hpath
      obtain ⟨_, _, he, -⟩ := hpath
      cases he

omit ht in
theorem codes_zeroPast : c.ZeroPast := by
  cases hroot : b.arena[b.root] with
  | leaf s f =>
    rw [genCodes_leaf hroot, Except.ok.injEq] at hgen
    exact hgen ▸ Codes.zeroPast_empty.record s (by decide)
  | internal f l r =>
    rw [genCodes_internal hroot] at hgen
    exact visit_keeps (fun c s p hp hc => hc.record s hp) hgen (by decide) Codes.zeroPast_empty

theorem TreeOf.codes_prefixFree : c.PrefixFree := by
  intro x y hne hx hy hpre
  rw [Ne, ← Ne, ht.coded_iff hgen] at hx hy
  rcases Nat.lt_or_ge (present F).length 2 with h1 | h2
  · obtain ⟨z, hz⟩ := List.length_eq_one_iff.1 (show (present F).length = 1 from by have := ht.present_pos; omega)
    rw [hz, List.mem_singleton] at hx hy
    exact hne (hx.trans hy.symm)
  · obtain ⟨t, ht'⟩ := hpre
    have hypath := ht.code_path hgen h2 hy
    rw [← ht'] at hypath
    exact hne (leafAt_append (ht.code_path hgen h2 hx) hypath).2

theorem TreeOf.codes_kraft (h2 : 2 ≤ (present F).length) : c.kraft = 2 ^ 255 := by
  obtain ⟨f, l, r, hroot⟩ := ht.root_internal h2
  rw [genCodes_internal hroot] at hgen
  rw [ht.visit_kraft hgen (by decide) (.inr ⟨f, l, r, hroot⟩) fun x _ _ => Codes.at_len_empty x, Codes.kraft_empty,
    Nat.zero_add]
  rfl

theorem TreeOf.length_code_le (h2 : 2 ≤ (present F).length) (x : Byte) :
    (Table.at c.len x).toNat ≤ (present F).length - 1 := by
  by_cases hx : Table.at c.len x = 0#8
  · rw [hx]
    exact Nat.zero_le _
  · have hroot := ht.rootLast
    have hlen := ht.length_path (ht.code_path hgen h2 ((ht.coded_iff hgen x).1 hx))
    rw [Codes.length_code] at hlen
    omega

end Tree

/-- Settles O32: the code of a built tree, property by property. -/
theorem generatedCodesAreACode : Obligations.GeneratedCodesAreACode := by
  unfold Obligations.GeneratedCodesAreACode
  intro F b hb
  have ht := builtTreeHasItsShape F b hb
  obtain ⟨c, hgen⟩ := ht.genCodes_ok
  obtain ⟨hmax, hattained, h255⟩ := c.maxLen_spec
  exact ⟨c, hgen, ht.coded_iff hgen, fun x h2 hx => ht.code_path hgen h2 hx,
    fun x hx => by rw [ht.code_single hgen hx]; exact Codes.code_record_same _ _ (by decide),
    codes_zeroPast hgen, hmax, hattained, ht.codes_prefixFree hgen, ht.codes_kraft hgen,
    fun x h2 => ht.length_code_le hgen h2 x, h255⟩

end Sys2Proof.Machine
end

section
/-! PROOFS. The walk's errors (40_datapath R165): after an encoded input it goes on from the root, and what follows
decides; an input that does not fit stops it before. -/

namespace Sys2Proof.Machine

section Path

variable {A : Arena} {root cur : NodeIdx} {cap room t start : Nat} {p rest : Bits} {x : Byte}

theorem walkFrom_at_leaf {b : Bool} {s : Byte} {f : Word} (h : A[child A cur b] = .leaf s f) (bits : Bits) :
    walkFrom A root cap (room + 1) t start cur (b :: bits) =
      (walkFrom A root cap room (t + 1) (if cur = root then t else start) root bits).map (List.cons s) := by
  simp only [walkFrom, h]
  cases walkFrom A root cap room (t + 1) (if cur = root then t else start) root bits <;> rfl

theorem walkFrom_leaf_full {b : Bool} {s : Byte} {f : Word} (h : A[child A cur b] = .leaf s f) (bits : Bits) :
    walkFrom A root cap 0 t start cur (b :: bits) = .error (.capacity, word cap) := by
  simp only [walkFrom, h]

/-- Along a path to a leaf the walk emits its symbol and goes on from the root, whatever follows. -/
theorem walkFrom_path_then (hpath : LeafAt A cur p x) (hp : p ≠ []) :
    ∃ start', walkFrom A root cap (room + 1) t start cur (p ++ rest) =
      (walkFrom A root cap room (t + p.length) start' root rest).map (List.cons x) := by
  induction p generalizing cur t start with
  | nil => exact absurd rfl hp
  | cons b p ih =>
    have hnext := leafAt_child hpath
    rw [List.cons_append, List.length_cons, show t + (p.length + 1) = t + 1 + p.length by omega]
    cases hc : A[child A cur b] with
    | leaf s f =>
      obtain ⟨rfl, rfl⟩ := (leafAt_leaf hc p x).1 hnext
      exact ⟨_, walkFrom_at_leaf hc rest⟩
    | internal f l r =>
      obtain ⟨_, _, rfl, _⟩ := (leafAt_internal hc p x).1 hnext
      rw [walkFrom_to_internal hc]
      exact ih hnext (List.cons_ne_nil _ _)

/-- Without room the walk stops at the end of the path, whatever follows. -/
theorem walkFrom_path_full (hpath : LeafAt A cur p x) (hp : p ≠ []) :
    walkFrom A root cap 0 t start cur (p ++ rest) = .error (.capacity, word cap) := by
  induction p generalizing cur t start with
  | nil => exact absurd rfl hp
  | cons b p ih =>
    have hnext := leafAt_child hpath
    rw [List.cons_append]
    cases hc : A[child A cur b] with
    | leaf s f => exact walkFrom_leaf_full hc _
    | internal f l r =>
      obtain ⟨_, _, rfl, _⟩ := (leafAt_internal hc p x).1 hnext
      rw [walkFrom_to_internal hc]
      exact ih hnext (List.cons_ne_nil _ _)

variable {code : Byte → Bits} {input : List Byte}

/-- After an encoded input that fits, the walk goes on from the root. -/
theorem walkFrom_input_then (hpath : ∀ x ∈ input, LeafAt A root (code x) x) (hne : ∀ x ∈ input, code x ≠ [])
    (hfits : input.length ≤ room) :
    ∃ room' start', walkFrom A root cap room t start root (input.flatMap code ++ rest) =
      (walkFrom A root cap room' (t + (input.flatMap code).length) start' root rest).map (input ++ ·) := by
  induction input generalizing room t start with
  | nil =>
    refine ⟨room, start, ?_⟩
    simp only [List.flatMap_nil, List.nil_append, List.length_nil, Nat.add_zero]
    cases walkFrom A root cap room t start root rest <;> rfl
  | cons y ys ih =>
    obtain ⟨hy, hys⟩ := List.forall_mem_cons.1 hpath
    obtain ⟨hny, hnys⟩ := List.forall_mem_cons.1 hne
    cases room with
    | zero => simp at hfits
    | succ room =>
      rw [List.flatMap_cons, List.append_assoc, List.length_append, ← Nat.add_assoc]
      obtain ⟨start₁, h₁⟩ := walkFrom_path_then (cap := cap) (room := room) (t := t) (start := start)
        (rest := ys.flatMap code ++ rest) hy hny
      obtain ⟨room', start₂, h₂⟩ := ih (t := t + (code y).length) (start := start₁) hys hnys
        (Nat.le_of_succ_le_succ hfits)
      refine ⟨room', start₂, ?_⟩
      rw [h₁, h₂]
      cases walkFrom A root cap room' (t + (code y).length + (ys.flatMap code).length) start₂ root rest <;> rfl

/-- An encoded input that does not fit reports CAPACITY, whatever follows. -/
theorem walkFrom_input_overflows (hpath : ∀ x ∈ input, LeafAt A root (code x) x) (hne : ∀ x ∈ input, code x ≠ [])
    (hover : room < input.length) :
    walkFrom A root cap room t start root (input.flatMap code ++ rest) = .error (.capacity, word cap) := by
  induction input generalizing room t start with
  | nil => exact absurd hover (Nat.not_lt_zero _)
  | cons y ys ih =>
    obtain ⟨hy, hys⟩ := List.forall_mem_cons.1 hpath
    obtain ⟨hny, hnys⟩ := List.forall_mem_cons.1 hne
    rw [List.flatMap_cons, List.append_assoc]
    cases room with
    | zero => exact walkFrom_path_full hy hny
    | succ room =>
      obtain ⟨start₁, h₁⟩ := walkFrom_path_then (cap := cap) (room := room) (t := t) (start := start)
        (rest := ys.flatMap code ++ rest) hy hny
      rw [h₁, ih hys hnys (Nat.lt_of_succ_lt_succ hover)]
      rfl

end Path

/-- In a built tree the bits of a path that is not finished end off the root: the walk reports where the path began. -/
theorem TreeOf.walkFrom_unfinished {F : Table Word} {b : Built} (ht : TreeOf F b) {cur : NodeIdx}
    {cap room t start : Nat} {p q : Bits} {x : Byte} (hcur : cur ≤ b.root) (hpath : LeafAt b.arena cur (p ++ q) x)
    (hp : p ≠ []) (hq : q ≠ []) :
    walkFrom b.arena b.root cap room t start cur p =
      .error (.truncatedStream, word (if cur = b.root then t else start)) := by
  induction p generalizing cur t start with
  | nil => exact absurd rfl hp
  | cons d p ih =>
    have hnext : LeafAt b.arena (child b.arena cur d) (p ++ q) x := leafAt_child hpath
    obtain ⟨f, l, r, hint⟩ : ∃ f l r, b.arena[cur] = .internal f l r := by
      cases hc : b.arena[cur] with
      | leaf s f => cases ((leafAt_leaf hc _ x).1 hpath).1
      | internal f l r => exact ⟨f, l, r, rfl⟩
    have hlt : child b.arena cur d < b.root := by
      obtain ⟨-, -, hl, hr, -⟩ := ht.of_internal hint
      rw [child_internal hint]
      cases d
      · exact lt_of_lt_of_le hl hcur
      · exact lt_of_lt_of_le hr hcur
    cases hc : b.arena[child b.arena cur d] with
    | leaf s f => exact absurd (List.append_eq_nil_iff.1 ((leafAt_leaf hc _ x).1 hnext).1).2 hq
    | internal f l r =>
      rw [walkFrom_to_internal hc]
      cases p with
      | nil => simp only [walkFrom, if_pos (show child b.arena cur d ≠ b.root from hlt.ne)]
      | cons d' p => rw [ih hlt.le hnext (List.cons_ne_nil _ _), if_neg hlt.ne]

/-- A table with one symbol gives every input symbol the one bit "0". -/
theorem length_encodeBits_single {x : Byte} {input : List Byte}
    (hcoded : ∀ y ∈ input, Table.at (Codes.empty.record x [false]).len y ≠ 0#8) :
    (input.flatMap (Codes.empty.record x [false]).code).length = input.length := by
  have hone : ∀ y ∈ input, ((Codes.empty.record x [false]).code y).length = 1 := fun y hy => by
    have hyx : y = x := by
      by_contra hne
      exact hcoded y hy (by rw [Codes.at_len_record_other _ _ hne, Codes.at_len_empty])
    rw [hyx, Codes.code_record_same _ _ (by decide)]
    rfl
  rw [List.length_flatMap, List.map_congr_left hone, List.map_const', List.sum_replicate_nat, Nat.mul_one]

/-- Settles O39: the walk after an encoded input, by whether the tree is one leaf. -/
theorem walkReportsErrors : Obligations.WalkReportsErrors := by
  unfold Obligations.WalkReportsErrors
  intro F b c input bits cap hb hgen henc
  have ht := builtTreeHasItsShape F b hb
  obtain ⟨hcoded, rfl⟩ := encodeBits_ok_iff.1 henc
  rcases Nat.lt_or_ge (present F).length 2 with h1 | h2
  · obtain ⟨y, hy⟩ := List.length_eq_one_iff.1 (show (present F).length = 1 from by have := ht.present_pos; omega)
    have hc := ht.code_single hgen hy
    subst hc
    refine ⟨fun x p hx hpre hne hproper _ => ?_, fun p hover => ?_⟩
    · rw [hy, List.mem_singleton] at hx
      rw [hx, Codes.code_record_same _ _ (by decide)] at hpre hproper
      have hlen := hpre.length_le
      refine absurd (hpre.eq_of_length_le ?_) hproper
      exact List.length_pos_iff.2 hne
    · rw [walkBits_leaf (ht.root_leaf hy)]
      refine walkLeaf_overflows cap y ?_
      rw [List.length_append, length_encodeBits_single hcoded]
      omega
  · obtain ⟨f, l, r, hroot⟩ := ht.root_internal h2
    have hpath : ∀ x ∈ input, LeafAt b.arena b.root (c.code x) x := fun x hx =>
      leafAt_of_genCodes hroot hgen (hcoded x hx)
    have hcode : ∀ x ∈ input, c.code x ≠ [] := fun x hx hnil => hcoded x hx (Codes.code_eq_nil.1 hnil)
    refine ⟨fun x p hx hpre hne hproper hfits => ?_, fun p hover => ?_⟩
    · obtain ⟨q, hq⟩ := hpre
      have hxpath := ht.code_path hgen h2 hx
      rw [← hq] at hxpath
      have hqne : q ≠ [] := fun hnil => hproper (by rw [← hq, hnil, List.append_nil])
      obtain ⟨room', start', h⟩ := walkFrom_input_then (cap := cap) (t := 0) (start := 0) (rest := p) hpath hcode hfits
      rw [walkBits_internal hroot, h, ht.walkFrom_unfinished le_rfl hxpath hne hqne, if_pos rfl, Nat.zero_add]
      rfl
    · rw [walkBits_internal hroot]
      exact walkFrom_input_overflows hpath hcode hover

end Sys2Proof.Machine
end

section
/-! PROOFS. ParseBlob field by field (40_datapath R171): what each check answers, a field of 32 bits being `le32` of its
value. -/

namespace Sys2Proof.Machine

/-! ### Fields of 32 bits -/

theorem sint32_nonpos_iff {v : Nat} (hv : v < 2 ^ 32) : sint32 v ≤ 0 ↔ v = 0 ∨ 2 ^ 31 ≤ v := by
  unfold sint32
  split <;> omega

/-- The first four bytes of a list, if it has them, are a 32-bit field. -/
theorem exists_le32_append {B : List Byte} (h : 4 ≤ B.length) : ∃ v rest, v < 2 ^ 32 ∧ B = le32 v ++ rest := by
  match B, h with
  | b0 :: b1 :: b2 :: b3 :: rest, _ =>
    exact ⟨rdle32 b0 b1 b2 b3, rest, rdle32_lt .., by rw [le32_of_rdle32]; rfl⟩

/-! ### The symbol count -/

/-- ParseBlob from the result of its header on (40_datapath R171). -/
def parseFinish (k : Nat) (header : Except Nat (Table Word × Nat × List Byte)) : Except Nat Parsed :=
  match header with
  | .error o => .error o
  | .ok (F, total, rest) =>
    match parseTail k (4 + 5 * k) rest with
    | .error o => .error o
    | .ok (P, pad) => .ok { freq := F, count := k, total := total, payload := P, pad := pad }

theorem parseBlob_short {B : List Byte} (h : B.length < 4) : parseBlob B = .error 0 := by
  match B, h with
  | [], _ => rfl
  | [_], _ => rfl
  | [_, _], _ => rfl
  | [_, _, _], _ => rfl

theorem parseBlob_count_out_of_range {v : Nat} (hv : v < 2 ^ 32) (h : 256 < v) (rest : List Byte) :
    parseBlob (le32 v ++ rest) = .error 0 := by
  simp only [le32, List.cons_append, parseBlob, rdle32_of_le32 hv]
  refine if_pos ?_
  unfold sint32
  split <;> omega

theorem parseBlob_count {k : Nat} (h : k ≤ 256) (rest : List Byte) :
    parseBlob (le32 k ++ rest) = parseFinish k (parseEntries k 4 0 0 (Table.const 0#32) rest) := by
  simp only [le32, List.cons_append, List.nil_append, parseBlob, rdle32_of_le32 (show k < 2 ^ 32 by omega),
    sint32_of_lt (show k < 2 ^ 31 by omega), Int.toNat_natCast]
  rw [if_neg (by omega)]
  unfold parseFinish
  rfl

/-! ### One header entry -/

section Entry

variable {left o low total v : Nat} {F : Table Word} {x : Byte} {rest : List Byte}

theorem parseEntries_short {tail : List Byte} (h : tail.length < 5) :
    parseEntries (left + 1) o low total F tail = .error o := by
  match tail, h with
  | [], _ => rfl
  | [_], _ => rfl
  | [_, _], _ => rfl
  | [_, _, _], _ => rfl
  | [_, _, _, _], _ => rfl

theorem parseEntries_symbol_low (h : x.toNat < low) :
    parseEntries (left + 1) o low total F (x :: (le32 v ++ rest)) = .error o := by
  simp only [le32, List.cons_append, parseEntries, if_pos h]

theorem parseEntries_frequency_bad (hv : v < 2 ^ 32) (hx : low ≤ x.toNat)
    (h : v = 0 ∨ 2 ^ 31 ≤ v ∨ Config.int32Max < total + v) :
    parseEntries (left + 1) o low total F (x :: (le32 v ++ rest)) = .error (o + 1) := by
  simp only [le32, List.cons_append, parseEntries, rdle32_of_le32 hv, if_neg (Nat.not_lt.2 hx)]
  by_cases hpos : sint32 v ≤ 0
  · rw [if_pos hpos]
  · rw [if_neg hpos, if_pos]
    rw [sint32_nonpos_iff hv] at hpos
    omega

theorem parseEntries_good (hv : v < 2 ^ 31) (hx : low ≤ x.toNat) (hpos : 0 < v)
    (htotal : total + v ≤ Config.int32Max) :
    parseEntries (left + 1) o low total F (x :: (le32 v ++ rest)) =
      parseEntries left (o + 5) (x.toNat + 1) (total + v) (Table.put F x (word v)) rest := by
  have hv32 : v < 2 ^ 32 := by omega
  simp only [le32, List.cons_append, List.nil_append, parseEntries, rdle32_of_le32 hv32, if_neg (Nat.not_lt.2 hx)]
  rw [if_neg (by rw [sint32_nonpos_iff hv32]; omega), if_neg (Nat.not_lt.2 htotal)]

end Entry

/-! ### The rest of the blob -/

/-- ParseBlob from the padding field on, the packed length being `m` and the marker at offset `h`. -/
def parsePad (h m : Nat) : List Byte → Except Nat (List Byte × Nat)
  | p0 :: p1 :: p2 :: p3 :: P =>
    if sint32 (rdle32 p0 p1 p2 p3) < 0 ∨ sint32 (rdle32 p0 p1 p2 p3) > 7 then .error (h + 14)
    else if (m : Int) = 0 ∧ sint32 (rdle32 p0 p1 p2 p3) ≠ 0 then .error (h + 14)
    else if (P.length : Int) ≠ m then .error (h + 18)
    else .ok (P, (sint32 (rdle32 p0 p1 p2 p3)).toNat)
  | _ => .error (h + 14)

theorem take_marker (rest : List Byte) : (Config.marker ++ rest).take 10 = Config.marker := List.take_left' rfl

theorem drop_marker (rest : List Byte) : (Config.marker ++ rest).drop 10 = rest := List.drop_left' rfl

section Tail

variable {k h m pad : Nat} {P rest : List Byte}

theorem parseTail_marker_wrong (hm : rest.take 10 ≠ Config.marker) : parseTail k h rest = .error h := by
  rw [parseTail, if_pos hm]

theorem parseTail_length_short (hr : rest.length < 4) : parseTail k h (Config.marker ++ rest) = .error (h + 10) := by
  match rest, hr with
  | [], _ => rfl
  | [_], _ => rfl
  | [_, _], _ => rfl
  | [_, _, _], _ => rfl

theorem parseTail_length_bad (hm : m < 2 ^ 32) (hbad : 2 ^ 31 ≤ m ∨ (k = 0 ∧ m ≠ 0)) :
    parseTail k h (Config.marker ++ (le32 m ++ rest)) = .error (h + 10) := by
  rw [parseTail, take_marker, drop_marker, if_neg (by simp)]
  simp only [le32, List.cons_append, rdle32_of_le32 hm]
  by_cases hneg : 2 ^ 31 ≤ m
  · rw [if_pos (sint32_neg hneg hm)]
  · rw [sint32_of_lt (by omega), if_neg (by omega), if_pos (by omega)]

/-- After a good packed length, the padding. -/
theorem parseTail_length_good (hm : m < 2 ^ 31) (hk : k = 0 → m = 0) :
    parseTail k h (Config.marker ++ (le32 m ++ rest)) = parsePad h m rest := by
  rw [parseTail, take_marker, drop_marker, if_neg (by simp)]
  simp only [le32, List.cons_append, List.nil_append, rdle32_of_le32 (show m < 2 ^ 32 by omega), sint32_of_lt hm]
  rw [if_neg (by omega), if_neg (by omega)]
  unfold parsePad
  rfl

theorem parseTail_pad_short (hm : m < 2 ^ 31) (hk : k = 0 → m = 0) (hr : rest.length < 4) :
    parseTail k h (Config.marker ++ (le32 m ++ rest)) = .error (h + 14) := by
  rw [parseTail_length_good hm hk]
  match rest, hr with
  | [], _ => rfl
  | [_], _ => rfl
  | [_, _], _ => rfl
  | [_, _, _], _ => rfl

theorem parseTail_pad_bad (hm : m < 2 ^ 31) (hk : k = 0 → m = 0) (hpad : pad < 2 ^ 32)
    (hbad : 7 < pad ∨ (m = 0 ∧ pad ≠ 0)) :
    parseTail k h (Config.marker ++ (le32 m ++ (le32 pad ++ P))) = .error (h + 14) := by
  rw [parseTail_length_good hm hk]
  simp only [le32, List.cons_append, parsePad, rdle32_of_le32 hpad]
  by_cases hrange : sint32 pad < 0 ∨ sint32 pad > 7
  · rw [if_pos hrange]
  · rw [if_neg hrange, if_pos]
    unfold sint32 at hrange ⊢
    split at hrange <;> split <;> omega

theorem parseTail_sizes_good (hm : m < 2 ^ 31) (hk : k = 0 → m = 0) (hpad : pad ≤ 7) (hnil : m = 0 → pad = 0) :
    parseTail k h (Config.marker ++ (le32 m ++ (le32 pad ++ P))) =
      if P.length ≠ m then .error (h + 18) else .ok (P, pad) := by
  rw [parseTail_length_good hm hk]
  simp only [le32, List.cons_append, List.nil_append, parsePad, rdle32_of_le32 (show pad < 2 ^ 32 by omega),
    sint32_of_lt (show pad < 2 ^ 31 by omega), Int.toNat_natCast]
  rw [if_neg (by omega), if_neg (by omega)]
  simp only [ne_eq, Nat.cast_inj]

end Tail

end Sys2Proof.Machine
end

section
/-! PROOFS. ParseBlob of a header with a legal table (40_datapath R171), and so that parsing inverts serializing (R172).
-/

namespace Sys2Proof.Machine

/-- The table after header entries for the symbols `ss` with their frequencies in `F`. -/
def loadEntries (F : Table Word) (ss : List Byte) (G : Table Word) : Table Word :=
  ss.foldl (fun G s => Table.put G s (Table.at F s)) G

theorem at_loadEntries (F : Table Word) (ss : List Byte) (G : Table Word) (b : Byte) :
    Table.at (loadEntries F ss G) b = if b ∈ ss then Table.at F b else Table.at G b := by
  induction ss generalizing G with
  | nil => simp [loadEntries]
  | cons s ss ih =>
    have hstep : loadEntries F (s :: ss) G = loadEntries F ss (Table.put G s (Table.at F s)) := rfl
    rw [hstep, ih]
    by_cases hss : b ∈ ss
    · simp [hss]
    · by_cases hs : b = s
      · subst hs
        simp [hss]
      · simp [hss, hs, Table.at_put_other _ _ hs]

/-- The entries of the present symbols make the whole table. -/
theorem loadEntries_present (F : Table Word) : loadEntries F (present F) (Table.const 0#32) = F := by
  refine Table.ext_at fun b => ?_
  rw [at_loadEntries, Table.at_const]
  split
  · rfl
  · rename_i hb
    rw [mem_present, Ne, freqOf_eq_zero, not_not] at hb
    exact hb.symm

theorem word_freqOf (F : Table Word) (s : Byte) : word (freqOf F s) = Table.at F s := by
  rw [word, freqOf, BitVec.ofNat_toNat, BitVec.setWidth_eq]

/-- Good entries are read one after another; afterwards the next symbol has to be above all of them. -/
theorem parseEntries_header {F : Table Word} {ss : List Byte} {left o low total : Nat} {G : Table Word}
    {rest : List Byte} (hasc : ss.Pairwise fun a b => a.toNat < b.toNat) (hlow : ∀ s ∈ ss, low ≤ s.toNat)
    (hpos : ∀ s ∈ ss, 0 < freqOf F s) (hsum : total + freqSum F ss ≤ Config.int32Max) :
    ∃ low', (∀ n, low' ≤ n ↔ low ≤ n ∧ ∀ s ∈ ss, s.toNat < n) ∧
      parseEntries (ss.length + left) o low total G (ss.flatMap (headerEntry F) ++ rest) =
        parseEntries left (o + 5 * ss.length) low' (total + freqSum F ss) (loadEntries F ss G) rest := by
  induction ss generalizing o low total G with
  | nil => exact ⟨low, by simp, by simp [freqSum, loadEntries]⟩
  | cons s ss ih =>
    have hsum_cons : freqSum F (s :: ss) = freqOf F s + freqSum F ss := rfl
    rw [hsum_cons] at hsum ⊢
    obtain ⟨habove, hasc⟩ := List.pairwise_cons.1 hasc
    obtain ⟨hs, hlow⟩ := List.forall_mem_cons.1 hlow
    obtain ⟨hspos, hpos⟩ := List.forall_mem_cons.1 hpos
    have hlt : freqOf F s < 2 ^ 31 := by
      have : Config.int32Max < 2 ^ 31 := by decide
      omega
    obtain ⟨low', hlow', hrest⟩ := ih (o := o + 5) (low := s.toNat + 1) (total := total + freqOf F s)
      (G := Table.put G s (Table.at F s)) hasc habove hpos (by omega)
    refine ⟨low', fun n => ?_, ?_⟩
    · rw [hlow', List.forall_mem_cons]
      constructor
      · rintro ⟨h1, h2⟩
        exact ⟨by omega, by omega, h2⟩
      · rintro ⟨_, h1, h2⟩
        exact ⟨h1, h2⟩
    · rw [List.flatMap_cons, headerEntry, List.cons_append, List.cons_append, List.append_assoc, List.length_cons,
        Nat.add_right_comm, parseEntries_good hlt hs hspos (by omega), word_freqOf, hrest,
        show o + 5 + 5 * ss.length = o + 5 * (ss.length + 1) by omega, Nat.add_assoc total]
      rfl

/-- ParseBlob past the entries of a legal table, `left` entries being still to come. -/
theorem parseBlob_header {F : Table Word} (hF : FreqLegal F) {left : Nat} (hk : (present F).length + left ≤ 256)
    (rest : List Byte) :
    ∃ low, (∀ n, low ≤ n ↔ ∀ s ∈ present F, s.toNat < n) ∧
      parseBlob (le32 ((present F).length + left) ++ ((present F).flatMap (headerEntry F) ++ rest)) =
        parseFinish ((present F).length + left) (parseEntries left (4 + 5 * (present F).length) low
          (freqSum F allSymbols) F rest) := by
  obtain ⟨low, hlow, hentries⟩ := parseEntries_header (F := F) (left := left) (o := 4) (low := 0) (total := 0)
    (G := Table.const 0#32) (rest := rest) (present_ascending F) (fun _ _ => Nat.zero_le _)
    (fun s hs => Nat.pos_of_ne_zero (mem_present.1 hs)) (by rw [freqSum_present, Nat.zero_add]; exact hF.2)
  refine ⟨low, fun n => by rw [hlow]; exact and_iff_right (Nat.zero_le _), ?_⟩
  rw [parseBlob_count hk, hentries, loadEntries_present, freqSum_present, Nat.zero_add]

/-- ParseBlob of a blob whose header is that of a legal table: what its marker, sizes and payload give. -/
theorem parseBlob_tail {F : Table Word} (hF : FreqLegal F) (rest : List Byte) :
    parseBlob (le32 (present F).length ++ ((present F).flatMap (headerEntry F) ++ rest)) =
      (parseTail (present F).length (4 + 5 * (present F).length) rest).map fun x =>
        { freq := F, count := (present F).length, total := freqSum F allSymbols, payload := x.1, pad := x.2 } := by
  obtain ⟨low, -, h⟩ := parseBlob_header hF (left := 0) (length_present_le F) rest
  rw [Nat.add_zero] at h
  rw [h, parseEntries, parseFinish]
  cases parseTail (present F).length (4 + 5 * (present F).length) rest <;> rfl

theorem serialize_eq (F : Table Word) (P : List Byte) (pad : Nat) :
    serialize F P pad = le32 (present F).length ++ ((present F).flatMap (headerEntry F) ++
      (Config.marker ++ (le32 P.length ++ (le32 pad ++ P)))) := by
  simp only [serialize, List.append_assoc]

theorem parseBlob_serialize {F : Table Word} {P : List Byte} {pad : Nat} (hF : FreqLegal F)
    (hP : P.length ≤ Config.int32Max) (hpad : pad ≤ 7) (hnil : P = [] → pad = 0) (hempty : present F = [] → P = []) :
    parseBlob (serialize F P pad) =
      .ok { freq := F, count := (present F).length, total := freqSum F allSymbols, payload := P, pad := pad } := by
  have hlt : P.length < 2 ^ 31 := Nat.lt_of_le_of_lt hP (by decide)
  rw [serialize_eq, parseBlob_tail hF, parseTail_sizes_good hlt
    (fun h => List.length_eq_zero_iff.2 (hempty (List.length_eq_zero_iff.1 h))) hpad
    (fun h => hnil (List.length_eq_zero_iff.1 h)), if_neg (not_not.2 rfl)]
  rfl

/-! ### From a parsed blob back -/

/-- What the sizes and the payload of a blob that parses are. -/
theorem eq_of_parseTail {k h pad : Nat} {rest P : List Byte} (hp : parseTail k h rest = .ok (P, pad)) :
    rest = Config.marker ++ (le32 P.length ++ (le32 pad ++ P)) ∧ P.length < 2 ^ 31 ∧ pad ≤ 7 ∧
      (P = [] → pad = 0) ∧ (k = 0 → P = []) := by
  by_cases hmarker : rest.take 10 = Config.marker
  case neg => rw [parseTail_marker_wrong hmarker] at hp; cases hp
  have hrest : rest = Config.marker ++ rest.drop 10 := by rw [← hmarker, List.take_append_drop]
  rw [hrest] at hp
  rcases Nat.lt_or_ge (rest.drop 10).length 4 with hshort | hlong
  · rw [parseTail_length_short hshort] at hp; cases hp
  obtain ⟨m, rest₁, hm, hrest₁⟩ := exists_le32_append hlong
  rw [hrest₁] at hp hrest
  by_cases hbad : 2 ^ 31 ≤ m ∨ (k = 0 ∧ m ≠ 0)
  · rw [parseTail_length_bad hm hbad] at hp; cases hp
  have hm31 : m < 2 ^ 31 := by omega
  have hk : k = 0 → m = 0 := by omega
  rcases Nat.lt_or_ge rest₁.length 4 with hshort | hlong
  · rw [parseTail_pad_short hm31 hk hshort] at hp; cases hp
  obtain ⟨pad', P', hpad', hrest₂⟩ := exists_le32_append hlong
  rw [hrest₂] at hp hrest
  by_cases hbad : 7 < pad' ∨ (m = 0 ∧ pad' ≠ 0)
  · rw [parseTail_pad_bad hm31 hk hpad' hbad] at hp; cases hp
  rw [parseTail_sizes_good hm31 hk (by omega) (by omega)] at hp
  split at hp
  · cases hp
  · rename_i hlen
    cases hp
    rw [not_not] at hlen
    subst hlen
    exact ⟨hrest, hm31, by omega, fun h => by simp [h] at hbad; omega, fun h => List.length_eq_zero_iff.1 (hk h)⟩

/-- What the header entries of a blob that parses are: ascending symbols with positive frequencies of a legal total. -/
theorem eq_of_parseEntries {left o low total total' : Nat} {G F : Table Word} {rest rest' : List Byte}
    (hp : parseEntries left o low total G rest = .ok (F, total', rest')) (htotal : total ≤ Config.int32Max) :
    ∃ ss : List Byte, ss.length = left ∧ (ss.Pairwise fun a b => a.toNat < b.toNat) ∧ (∀ s ∈ ss, low ≤ s.toNat) ∧
      (∀ s ∈ ss, 0 < freqOf F s) ∧ total' = total + freqSum F ss ∧ total' ≤ Config.int32Max ∧
      (∀ b, b ∉ ss → Table.at F b = Table.at G b) ∧ rest = ss.flatMap (headerEntry F) ++ rest' := by
  induction left generalizing o low total G rest with
  | zero =>
    rw [parseEntries, Except.ok.injEq, Prod.mk.injEq, Prod.mk.injEq] at hp
    obtain ⟨rfl, rfl, rfl⟩ := hp
    exact ⟨[], rfl, .nil, by simp, by simp, by simp [freqSum], htotal, by simp, by simp⟩
  | succ left ih =>
    rcases Nat.lt_or_ge rest.length 5 with hshort | hlong
    · rw [parseEntries_short hshort] at hp; cases hp
    obtain ⟨x, tail, rfl⟩ := List.exists_cons_of_length_pos (show 0 < rest.length by omega)
    obtain ⟨v, rest₁, hv, rfl⟩ := exists_le32_append (B := tail) (by simpa using hlong)
    by_cases hx : x.toNat < low
    · rw [parseEntries_symbol_low hx] at hp; cases hp
    by_cases hbad : v = 0 ∨ 2 ^ 31 ≤ v ∨ Config.int32Max < total + v
    · rw [parseEntries_frequency_bad hv (by omega) hbad] at hp; cases hp
    rw [parseEntries_good (by omega) (by omega) (by omega) (by omega)] at hp
    obtain ⟨ss, hlen, hasc, hlow, hpos, hsum, hmax, hother, rfl⟩ := ih hp (by omega)
    have hxF : freqOf F x = v := by
      have hnot : x ∉ ss := fun hmem => absurd (hlow x hmem) (by omega)
      rw [freqOf, hother x hnot, Table.at_put_same, toNat_word hv]
    refine ⟨x :: ss, by rw [List.length_cons, hlen], List.pairwise_cons.2 ⟨fun s hs => hlow s hs, hasc⟩,
      List.forall_mem_cons.2 ⟨by omega, fun s hs => ?_⟩, List.forall_mem_cons.2 ⟨by omega, hpos⟩, ?_, hmax,
      fun b hb => ?_, ?_⟩
    · have := hlow s hs
      omega
    · rw [hsum, show freqSum F (x :: ss) = freqOf F x + freqSum F ss from rfl, hxF, Nat.add_assoc]
    · rw [List.mem_cons, not_or] at hb
      rw [hother b hb.2, Table.at_put_other _ _ hb.1]
    · rw [List.flatMap_cons, headerEntry, hxF, List.cons_append, List.cons_append, List.append_assoc]

/-- Two ascending lists with the same symbols are the same list. -/
theorem ascending_ext {ss tt : List Byte} (hs : ss.Pairwise fun a b => a.toNat < b.toNat)
    (ht : tt.Pairwise fun a b => a.toNat < b.toNat) (h : ∀ b, b ∈ ss ↔ b ∈ tt) : ss = tt := by
  have hnodup {l : List Byte} (hl : l.Pairwise fun a b => a.toNat < b.toNat) : l.Nodup :=
    hl.imp fun hlt he => Nat.ne_of_lt hlt (congrArg _ he)
  exact List.Perm.eq_of_pairwise (fun a b _ _ h1 h2 => absurd h1 (Nat.lt_asymm h2)) hs ht
    ((List.perm_ext_iff_of_nodup (hnodup hs) (hnodup ht)).2 h)

/-- What a blob that parses is: the serialized form of what it parses to, which is legal. -/
theorem eq_of_parseBlob {B : List Byte} {r : Parsed} (hp : parseBlob B = .ok r) :
    serialize r.freq r.payload r.pad = B ∧ FreqLegal r.freq ∧ r.count = (present r.freq).length ∧
      r.total = freqSum r.freq allSymbols ∧ r.pad ≤ 7 ∧ (r.payload = [] → r.pad = 0) ∧
      (present r.freq = [] → r.payload = []) := by
  rcases Nat.lt_or_ge B.length 4 with hshort | hlong
  · rw [parseBlob_short hshort] at hp; cases hp
  obtain ⟨k, rest, hk, rfl⟩ := exists_le32_append hlong
  rcases Nat.lt_or_ge 256 k with hbad | hk256
  · rw [parseBlob_count_out_of_range hk hbad] at hp; cases hp
  rw [parseBlob_count hk256] at hp
  cases hentries : parseEntries k 4 0 0 (Table.const 0#32) rest with
  | error o => rw [hentries] at hp; cases hp
  | ok x =>
    obtain ⟨F, total, rest₁⟩ := x
    simp only [hentries, parseFinish] at hp
    cases htail : parseTail k (4 + 5 * k) rest₁ with
    | error o => rw [htail] at hp; cases hp
    | ok y =>
      obtain ⟨P, pad⟩ := y
      rw [htail] at hp
      cases hp
      obtain ⟨ss, rfl, hasc, -, hpos, hsum, hmax, hother, rfl⟩ := eq_of_parseEntries hentries (Nat.zero_le _)
      obtain ⟨rfl, -, hpad, hnil, hempty⟩ := eq_of_parseTail htail
      have hss : ss = present F := by
        refine ascending_ext hasc (present_ascending F) fun b => ⟨fun hb => mem_present.2 (hpos b hb).ne', fun hb => ?_⟩
        by_contra hnot
        rw [mem_present, Ne, freqOf_eq_zero, hother b hnot, Table.at_const] at hb
        exact hb rfl
      subst hss
      rw [Nat.zero_add] at hsum
      have hlegal : FreqLegal F := by
        refine freqLegal_iff_present.2 ⟨fun x hx => ?_, hsum ▸ hmax⟩
        have hle : freqOf F x ≤ freqSum F (present F) :=
          List.single_le_sum (fun _ _ => Nat.zero_le _) _ (List.mem_map_of_mem hx)
        have hlt : Config.int32Max < 2 ^ 31 := by decide
        omega
      exact ⟨serialize_eq .., hlegal, rfl, hsum.trans (freqSum_present F), hpad, hnil,
        fun h => hempty (List.length_eq_zero_iff.2 h)⟩

/-- Settles O41: both directions. -/
theorem parseInvertsSerialize : Obligations.ParseInvertsSerialize := by
  unfold Obligations.ParseInvertsSerialize
  exact ⟨fun F P pad => parseBlob_serialize, fun B r hp => (eq_of_parseBlob hp).1⟩

end Sys2Proof.Machine
end

section
/-! PROOFS. The blobs ParseBlob rejects, check by check (40_datapath R171). A field written as bytes or as a word is
`le32` of the word's value. -/

namespace Sys2Proof.Machine

theorem toNat_littleEndian (b0 b1 b2 b3 : Byte) : (b3 ++ b2 ++ b1 ++ b0).toNat = rdle32 b0 b1 b2 b3 := by
  have shift {n : Nat} (a : BitVec n) (b : Byte) : (a ++ b).toNat = 256 * a.toNat + b.toNat := by
    rw [BitVec.toNat_append, ← Nat.shiftLeft_add_eq_or_of_lt b.isLt, Nat.shiftLeft_eq, Nat.mul_comm]
  rw [shift, shift, shift, rdle32]
  omega

/-- Four bytes are the field of the word they spell. -/
theorem bytes_eq_le32 (b0 b1 b2 b3 : Byte) (rest : List Byte) :
    b0 :: b1 :: b2 :: b3 :: rest = le32 (b3 ++ b2 ++ b1 ++ b0).toNat ++ rest := by
  rw [toNat_littleEndian, le32_of_rdle32]
  rfl

theorem int32Field_eq_le32 (v : Word) : int32Field v = le32 v.toNat := by
  refine List.ext_getElem? fun i => ?_
  rcases Nat.lt_or_ge i 4 with hi | hi
  · rw [getElem?_le32 _ hi, BitVec.ofNat_toNat, BitVec.setWidth_eq]
    simp [int32Field, hi]
  · rw [List.getElem?_eq_none (by simpa [int32Field] using hi), List.getElem?_eq_none hi]

theorem blobHead_eq {k : Nat} (hk : k < 2 ^ 32) (F : Table Word) :
    blobHead k F = le32 k ++ (present F).flatMap (headerEntry F) := by
  have hpairs : headerPairs F = (present F).flatMap (headerEntry F) := by
    rw [headerPairs]
    exact congrArg (fun f => (present F).flatMap f) (funext fun s => by rw [int32Field_eq_le32]; rfl)
  rw [blobHead, hpairs, int32Field_eq_le32, toNat_word hk]

/-- A field is negative exactly if its bit 31 is set (00_scope R13). -/
theorem getLsbD_31_iff {v : Word} : v.getLsbD 31 = true ↔ 2 ^ 31 ≤ v.toNat := by
  rw [show v.getLsbD 31 = v.msb from rfl, BitVec.msb_eq_decide, decide_eq_true_eq]

theorem getLsbD_31_eq_false {v : Word} : v.getLsbD 31 = false ↔ v.toNat < 2 ^ 31 := by
  rw [Bool.eq_false_iff, Ne, getLsbD_31_iff, not_le]

theorem toNat_eq_zero {v : Word} : v.toNat = 0 ↔ v = 0#32 :=
  ⟨fun h => BitVec.eq_of_toNat_eq (by simpa using h), fun h => by simp [h]⟩

section Header

variable {F : Table Word} (hF : FreqLegal F)

include hF

/-- An error at the next entry. -/
theorem parseBlob_entry_error {k e : Nat} {rest : List Byte} (hk : (present F).length < k) (hk256 : k ≤ 256)
    (herr : ∀ low left, (∀ n, low ≤ n ↔ ∀ s ∈ present F, s.toNat < n) →
      parseEntries (left + 1) (4 + 5 * (present F).length) low (freqSum F allSymbols) F rest = .error e) :
    parseBlob (blobHead k F ++ rest) = .error e := by
  obtain ⟨left, rfl⟩ := Nat.exists_eq_add_of_lt hk
  obtain ⟨low, hlow, h⟩ := parseBlob_header hF (left := left + 1) (by omega) rest
  rw [blobHead_eq (by omega), List.append_assoc]
  refine Eq.trans h ?_
  rw [herr low left hlow]
  rfl

/-- An error past the entries. -/
theorem parseBlob_tail_error {e : Nat} {rest : List Byte}
    (herr : parseTail (present F).length (4 + 5 * (present F).length) rest = .error e) :
    parseBlob (blobHead (present F).length F ++ rest) = .error e := by
  have hle := length_present_le F
  rw [blobHead_eq (by omega), List.append_assoc, parseBlob_tail hF, herr]
  rfl

end Header

theorem length_present_eq_zero {F : Table Word} : (present F).length = 0 ↔ present F = [] := List.length_eq_zero_iff

/-- Settles O55: check after check. -/
theorem parseRejectsMalformedBlobs : Obligations.ParseRejectsMalformedBlobs := by
  unfold Obligations.ParseRejectsMalformedBlobs
  refine ⟨fun B => parseBlob_short, ?count, ?entryShort, ?entry, ?marker, ?lengthShort, ?length, ?padShort, ?pad,
    ?payload⟩
  case count =>
    rintro b0 b1 b2 b3 k rest rfl hbad
    rw [getLsbD_31_iff] at hbad
    rw [bytes_eq_le32]
    generalize b3 ++ b2 ++ b1 ++ b0 = k at hbad ⊢
    exact parseBlob_count_out_of_range (BitVec.isLt _) (by omega) rest
  case entryShort =>
    intro F k tail hF hk hk256 htail
    exact parseBlob_entry_error hF hk hk256 fun low left _ => parseEntries_short htail
  case entry =>
    rintro F k x b0 b1 b2 b3 f rest hF hk hk256 rfl
    rw [bytes_eq_le32 b0]
    generalize b3 ++ b2 ++ b1 ++ b0 = f
    refine ⟨fun ⟨y, hy, hxy⟩ => ?_, fun habove hbad => ?_⟩
    · refine parseBlob_entry_error hF hk hk256 fun low left hlow => parseEntries_symbol_low ?_
      by_contra hge
      have := (hlow x.toNat).1 (by omega) y hy
      omega
    · rw [getLsbD_31_iff, ← toNat_eq_zero] at hbad
      refine parseBlob_entry_error hF hk hk256 fun low left hlow => ?_
      exact parseEntries_frequency_bad (BitVec.isLt _) ((hlow x.toNat).2 habove) (or_left_comm.1 hbad)
  case marker =>
    intro F tail hF hmarker
    exact parseBlob_tail_error hF (parseTail_marker_wrong hmarker)
  case lengthShort =>
    intro F tail hF htail
    rw [List.append_assoc]
    exact parseBlob_tail_error hF (parseTail_length_short htail)
  case length =>
    rintro F b0 b1 b2 b3 m rest hF rfl hbad
    rw [getLsbD_31_iff, Ne, ← toNat_eq_zero, ← length_present_eq_zero] at hbad
    rw [bytes_eq_le32, List.append_assoc]
    generalize b3 ++ b2 ++ b1 ++ b0 = m at hbad ⊢
    exact parseBlob_tail_error hF (parseTail_length_bad (BitVec.isLt _) hbad)
  case padShort =>
    intro F m tail hF hm hempty htail
    rw [← length_present_eq_zero, ← toNat_eq_zero] at hempty
    rw [int32Field_eq_le32, List.append_assoc, List.append_assoc]
    exact parseBlob_tail_error hF (parseTail_pad_short (getLsbD_31_eq_false.1 hm) hempty htail)
  case pad =>
    rintro F m b0 b1 b2 b3 pad P hF hm hempty rfl hbad
    rw [← length_present_eq_zero, ← toNat_eq_zero] at hempty
    rw [getLsbD_31_iff, Ne, ← toNat_eq_zero, ← toNat_eq_zero] at hbad
    rw [int32Field_eq_le32, bytes_eq_le32, List.append_assoc, List.append_assoc]
    generalize b3 ++ b2 ++ b1 ++ b0 = pad at hbad ⊢
    exact parseBlob_tail_error hF (parseTail_pad_bad (getLsbD_31_eq_false.1 hm) hempty (BitVec.isLt _) (by omega))
  case payload =>
    intro F P m pad hF hm hpad hnil hempty hlen
    rw [← length_present_eq_zero, ← toNat_eq_zero] at hempty
    rw [← toNat_eq_zero, ← toNat_eq_zero] at hnil
    rw [int32Field_eq_le32, int32Field_eq_le32, List.append_assoc, List.append_assoc, List.append_assoc]
    refine parseBlob_tail_error hF ?_
    rw [parseTail_sizes_good (getLsbD_31_eq_false.1 hm) hempty hpad hnil, if_pos hlen]

end Sys2Proof.Machine
end

section
/-! PROOFS. The commands one by one (41_encode R181 to R184, 42_decode R210, R211): the body's answer in each case, and
the completion that follows it. -/

namespace Sys2Proof.Machine

/-! ### BUILD_TREE and GEN_CODES -/

/-- The state after a BUILD_TREE that succeeds. -/
def State.built (s : State) (b : Built) : State :=
  { s.invCodes.loseHeap with
    node := b.arena, treeRoot := b.root, symCount := word b.count, total := word b.total, treeValid := true }

theorem buildTreeBody_ok {s : State} {b : Built} (h : buildTree s.freq = .ok b) :
    buildTreeBody s = .done (s.built b) := by
  simp only [buildTreeBody, h, State.built]

theorem buildTreeBody_error {s : State} {e : ErrCode} {v : Word} (h : buildTree s.freq = .error (.err e v)) :
    buildTreeBody s = .raised { s.invTree with symCount := 0#32, total := 0#32 } e v := by
  simp only [buildTreeBody, h]

/-- Settles O45: BuildTree's answer on FREQ decides. -/
theorem buildTreeBuildsOrReports : Obligations.BuildTreeBuildsOrReports := by
  unfold Obligations.BuildTreeBuildsOrReports
  intro s
  refine ⟨fun hlegal hne => ?_, fun hempty => ?_, fun pre post x hF hpre hsum hx => ?_⟩
  · obtain ⟨b, hb⟩ := buildTree_of_legal hlegal hne
    refine ⟨b, HeapArray.drawn s.draws, s.draws + 1, hb, ?_⟩
    rw [exec, execBuildTree, buildTreeBody_ok hb]
    rfl
  · rw [exec, execBuildTree, buildTreeBody_error (buildTree_of_empty hempty)]
    rfl
  · rw [exec, execBuildTree, buildTreeBody_error (buildTree_first_failing hF hpre hsum hx)]
    rfl

/-- The state after a GEN_CODES that succeeds. -/
def State.coded (s : State) (c : Codes) : State :=
  { s with codeLen := c.len, codeBits := c.bits, maxCodeLen := word c.maxLen, codesValid := true }

theorem genCodesBody_ok {s : State} {c : Codes} (hv : s.treeValid = true) (h : genCodes s.node s.treeRoot = .ok c) :
    genCodesBody s = .done (s.coded c) := by
  rw [genCodesBody, if_neg (by simp [hv])]
  simp only [h, State.coded]

/-- GenCodes of every built tree succeeds (40_datapath R152). -/
theorem genCodes_of_buildTree {F : Table Word} {b : Built} (hb : buildTree F = .ok b) :
    ∃ c, genCodes b.arena b.root = .ok c := (builtTreeHasItsShape F b hb).genCodes_ok

/-- A state that meets the invariant with TREE_VALID = 1 holds a built tree. -/
theorem State.Inv.genCodes_ok {s : State} (hinv : s.Inv) (hv : s.treeValid = true) :
    ∃ c, genCodes s.node s.treeRoot = .ok c := by
  obtain ⟨count, total, hb⟩ := hinv.tree hv
  exact genCodes_of_buildTree hb

/-- Settles O46: the tree held is BuildTree's, of which GenCodes succeeds. -/
theorem genCodesCompletes : Obligations.GenCodesCompletes := by
  unfold Obligations.GenCodesCompletes
  intro s hinv hv
  obtain ⟨c, hc⟩ := hinv.genCodes_ok hv
  refine ⟨c, hc, ?_⟩
  rw [exec, execGenCodes, genCodesBody_ok hv hc]
  rfl

/-! ### PACK and SERIALIZE -/

theorem encodeBits_ok {c : Codes} {input : List Byte} (h : ∀ x ∈ input, Table.at c.len x ≠ 0#8) (i : Nat) :
    encodeBits c i input = .ok (input.flatMap c.code) := encodeBits_ok_iff.2 ⟨h, rfl⟩

/-- The state after a PACK that fits. -/
def State.packedWith (s : State) (bits : Bits) : State :=
  { s.setPayload (packBits bits) with
    payLen := word (packedLen bits), pad := word (padCount bits), bitLen := word bits.length
    payloadValid := true }

theorem packBody_fits {s : State} {bits : Bits} (hv : s.codesValid = true)
    (hbits : encodeBits s.codes 0 s.input = .ok bits) (h : packedLen bits ≤ s.params.payCap) :
    packBody s = .done (s.packedWith bits) := by
  rw [packBody, if_neg (by simp [hv])]
  simp only [hbits, if_neg (Nat.not_lt.2 h), State.packedWith]

theorem packBody_overflows {s : State} {bits : Bits} (hv : s.codesValid = true)
    (hbits : encodeBits s.codes 0 s.input = .ok bits) (h : s.params.payCap < packedLen bits) :
    packBody s = .raised (s.invPay.setPayload []) .capacity (word (packedLen bits)) := by
  rw [packBody, if_neg (by simp [hv])]
  simp only [hbits, if_pos h, State.losePayload_eq]

theorem packBody_unknown {s : State} {i : Nat} (hv : s.codesValid = true)
    (hbits : encodeBits s.codes 0 s.input = .error i) :
    packBody s = .raised (s.invPay.setPayload []) .unknownSymbol (word i) := by
  rw [packBody, if_neg (by simp [hv])]
  simp only [hbits, State.losePayload_eq]

theorem bytes_filled_packBits (seed : Nat) (bits : Bits) :
    (Memory.filled seed (packBits bits)).bytes (packedLen bits) = packBits bits := by
  have h := Memory.bytes_filled seed (packBits bits)
  rwa [length_packBits] at h

/-- Settles O48: EncodeBits' answer and the payload's length decide. -/
theorem packPacksOrReports : Obligations.PackPacksOrReports := by
  unfold Obligations.PackPacksOrReports
  intro s hv
  refine ⟨fun hcoded hfits => ?_, fun pre post x hin hpre hx => ?_, fun hcoded hover => ?_⟩
  · refine ⟨Memory.filled s.draws (packBits (s.input.flatMap s.codes.code)), s.draws + 1, ?_, bytes_filled_packBits ..⟩
    rw [exec, execPack, packBody_fits hv (encodeBits_ok hcoded 0) hfits]
    rfl
  · have herr : encodeBits s.codes 0 s.input = .error pre.length := by
      rw [hin, encodeBits_first_uncoded 0 post hpre hx, Nat.zero_add]
    refine ⟨Memory.filled s.draws [], s.draws + 1, ?_⟩
    rw [exec, execPack, packBody_unknown hv herr]
    rfl
  · refine ⟨Memory.filled s.draws [], s.draws + 1, ?_⟩
    rw [exec, execPack, packBody_overflows hv (encodeBits_ok hcoded 0) hover]
    rfl

theorem serializeBody_fits {s : State} (hv : s.payloadValid = true) (h : s.blob.length ≤ s.params.outCap) :
    serializeBody s = .done (s.setOutput s.blob) := by
  rw [serializeBody, if_neg (by simp [hv]), if_neg (Nat.not_lt.2 h)]

theorem serializeBody_overflows {s : State} (hv : s.payloadValid = true) (h : s.params.outCap < s.blob.length) :
    serializeBody s = .raised (s.setOutput []) .capacity (word s.blob.length) := by
  rw [serializeBody, if_neg (by simp [hv]), if_pos h, State.loseOutput_eq]

/-- Settles O49: the blob's length decides. -/
theorem serializeWritesBlobOrReports : Obligations.SerializeWritesBlobOrReports := by
  unfold Obligations.SerializeWritesBlobOrReports
  intro s hv
  rw [show serialize s.freq s.packed s.pad.toNat = s.blob from rfl]
  refine ⟨fun hfits => ⟨Memory.filled s.draws s.blob, s.draws + 1, ?_, Memory.bytes_filled ..⟩,
    fun hover => ⟨Memory.filled s.draws [], s.draws + 1, ?_⟩⟩
  · rw [exec, execSerialize, serializeBody_fits hv hfits]
    generalize s.blob = B
    rfl
  · rw [exec, execSerialize, serializeBody_overflows hv hover]
    rfl

/-! ### PARSE and WALK -/

/-- The state after a PARSE that fits. -/
def State.parsed (s : State) (r : Parsed) : State :=
  { s.invAll.setPayload r.payload with
    freq := r.freq, symCount := word r.count, total := word r.total
    payLen := word r.payload.length, pad := word r.pad, bitLen := word (8 * r.payload.length - r.pad)
    payloadValid := true }

theorem parseBody_fits {s : State} {r : Parsed} (hr : parseBlob s.input = .ok r)
    (h : r.payload.length ≤ s.params.payCap) :
    parseBody s = .done (s.parsed r) := by
  simp only [parseBody, hr, if_neg (Nat.not_lt.2 h), State.parsed]

theorem parseBody_overflows {s : State} {r : Parsed} (hr : parseBlob s.input = .ok r)
    (h : s.params.payCap < r.payload.length) :
    parseBody s = .raised s.parseFailed .capacity (word r.payload.length) := by
  simp only [parseBody, hr, if_pos h]

theorem parseBody_malformed {s : State} {o : Nat} (h : parseBlob s.input = .error o) :
    parseBody s = .raised s.parseFailed .malformedHeader (word o) := by
  simp only [parseBody, h]

/-- PARSE and DECODE complete alike after PARSE's error path. -/
theorem parseFailed_completes (s : State) (e : ErrCode) (v : Word) :
    ∃ F pm d, (Effect.raised s.parseFailed e v).outcome = .next { s with
      freq := F, payload := pm, symCount := 0#32, total := 0#32,
      treeValid := false, codesValid := false, payloadValid := false, treeRoot := 0, maxCodeLen := 0#32,
      payLen := 0#32, pad := 0#32, bitLen := 0#32, draws := d,
      phase := .idle, done := true, err := e, errInfo := v } := ⟨_, _, _, rfl⟩

/-- Settles O54: ParseBlob's answer and the payload's length decide. -/
theorem parseLoadsOrReports : Obligations.ParseLoadsOrReports := by
  unfold Obligations.ParseLoadsOrReports
  intro s
  refine ⟨fun r hr hfits => ⟨Memory.filled s.draws r.payload, s.draws + 1, ?_, Memory.bytes_filled ..⟩,
    fun e v herr => ?_⟩
  · rw [exec, execParse, parseBody_fits hr hfits]
    rfl
  · have hbody : parseBody s = .raised s.parseFailed e v := by
      rcases herr with ⟨o, ho, rfl, rfl⟩ | ⟨r, hr, hover, rfl, rfl⟩
      · exact parseBody_malformed ho
      · exact parseBody_overflows hr hover
    rw [exec, execParse, hbody]
    exact parseFailed_completes s e v

theorem walkBody_ok {s : State} {out : List Byte} (ht : s.treeValid = true) (hp : s.payloadValid = true)
    (h : walkBits s.node s.treeRoot (unpackBits s.packed s.pad.toNat) s.params.outCap = .ok out) :
    walkBody s = .done (s.setOutput out) := by
  rw [walkBody, if_neg (not_not.2 (State.walkMissing_eq_zero.2 ⟨ht, hp⟩))]
  simp only [h]

theorem walkBody_error {s : State} {e : ErrCode} {v : Word} (ht : s.treeValid = true) (hp : s.payloadValid = true)
    (h : walkBits s.node s.treeRoot (unpackBits s.packed s.pad.toNat) s.params.outCap = .error (e, v)) :
    walkBody s = .raised (s.setOutput []) e v := by
  rw [walkBody, if_neg (not_not.2 (State.walkMissing_eq_zero.2 ⟨ht, hp⟩))]
  simp only [h, State.loseOutput_eq]

/-- Settles O56: the walk's answer decides. -/
theorem walkDecodesOrReports : Obligations.WalkDecodesOrReports := by
  unfold Obligations.WalkDecodesOrReports
  intro s ht hp
  refine ⟨fun out hout => ⟨Memory.filled s.draws out, s.draws + 1, ?_, Memory.bytes_filled ..⟩,
    fun e v herr => ⟨Memory.filled s.draws [], s.draws + 1, ?_⟩⟩
  · rw [exec, execWalk, walkBody_ok ht hp hout]
    rfl
  · rw [exec, execWalk, walkBody_error ht hp herr]
    rfl

end Sys2Proof.Machine
end

section
/-! PROOFS. ENCODE (41_encode R185, R186): its plan exists for every input that can be counted, and the bodies before
PACK succeed, so payload and blob lengths decide. -/

namespace Sys2Proof.Machine

theorem capWf_iff {low cap : Nat} : capWf low cap = true ↔ cap % 4 = 0 ∧ low ≤ cap ∧ cap ≤ 1048576 := by
  simp [capWf, and_assoc]

theorem Params.wf_iff {p : Params} : p.wf = true ↔ (p.inCap % 4 = 0 ∧ 4 ≤ p.inCap ∧ p.inCap ≤ 1048576) ∧
    (p.outCap % 4 = 0 ∧ 24 ≤ p.outCap ∧ p.outCap ≤ 1048576) ∧
    (p.payCap % 4 = 0 ∧ 4 ≤ p.payCap ∧ p.payCap ≤ 1048576) := by
  simp [Params.wf, capWf_iff, and_assoc]

theorem State.length_input (s : State) : s.input.length = s.inLen.toNat := Memory.length_bytes ..

theorem State.input_eq_nil {s : State} : s.input = [] ↔ s.inLen = 0#32 := by
  rw [← List.length_eq_zero_iff, State.length_input, toNat_eq_zero]

/-! ### The plan -/

theorem mem_present_countSymbols {input : List Byte} (h : input.length < 2 ^ 32) {x : Byte} :
    x ∈ present (countSymbols input) ↔ x ∈ input := by
  rw [mem_present, freqOf_countSymbols h, ← Nat.pos_iff_ne_zero, List.count_pos_iff]

theorem present_countSymbols_nil : present (countSymbols []) = [] :=
  List.eq_nil_iff_forall_not_mem.2 fun x hx =>
    absurd ((mem_present_countSymbols (input := []) (by decide)).1 hx) (List.not_mem_nil)

theorem freqLegal_countSymbols {input : List Byte} (h : input.length ≤ 1048576) : FreqLegal (countSymbols input) := by
  obtain ⟨hcount, hsum, -⟩ := countCountsSymbols input h
  refine ⟨fun b => ?_, ?_⟩
  · have hle : input.count b ≤ input.length := List.count_le_length
    rw [hcount]
    omega
  · rw [hsum]
    exact h.trans (by decide)

/-- The codes of the tree of an input's counts cover the input. -/
theorem encodeBits_countSymbols {input : List Byte} (h : input.length < 2 ^ 32) {b : Built} {c : Codes}
    (hb : buildTree (countSymbols input) = .ok b) (hc : genCodes b.arena b.root = .ok c) :
    encodeBits c 0 input = .ok (input.flatMap c.code) :=
  encodeBits_ok (fun x hx => ((builtTreeHasItsShape _ b hb).coded_iff hc x).2 ((mem_present_countSymbols h).2 hx)) 0

/-- Every input of at most 2^20 bytes that is not empty has a tree. -/
theorem buildTree_countSymbols {input : List Byte} (h : input.length ≤ 1048576) (hne : input ≠ []) :
    ∃ b, buildTree (countSymbols input) = .ok b := by
  refine buildTree_of_legal (freqLegal_countSymbols h) fun hnil => hne ?_
  refine List.eq_nil_iff_forall_not_mem.2 fun x hx => ?_
  rw [← mem_present_countSymbols (by omega), hnil] at hx
  exact List.not_mem_nil hx

/-! ### The bodies in sequence -/

/-- The state before PACK: ANALYZE, BUILD_TREE and GEN_CODES have written their results. -/
def State.planned (s : State) (F : Table Word) (b : Built) (c : Codes) : State :=
  { s.invAll with
    freq := F, node := b.arena, treeRoot := b.root, symCount := word b.count, total := word b.total
    treeValid := true, codeLen := c.len, codeBits := c.bits, maxCodeLen := word c.maxLen, codesValid := true
    heap := HeapArray.drawn s.draws, draws := s.draws + 1 }

theorem State.blob_packedWith (s : State) {bits : Bits} (h : packedLen bits < 2 ^ 32) :
    (s.packedWith bits).blob = serialize s.freq (packBits bits) (padCount bits) := by
  have hpad := padCount_le bits
  have hpacked : (s.packedWith bits).packed = packBits bits := by
    show (Memory.filled s.draws (packBits bits)).bytes (word (packedLen bits)).toNat = _
    rw [toNat_word h, bytes_filled_packBits]
  show serialize s.freq (s.packedWith bits).packed (word (padCount bits)).toNat = _
  rw [hpacked, toNat_word (by omega)]

/-- The state before SERIALIZE in ENCODE, with every field the steps before it write. -/
theorem State.packedWith_planned (s : State) (F : Table Word) (b : Built) (c : Codes) (bits : Bits) :
    (s.planned F b c).packedWith bits = { s with
      freq := F, node := b.arena, treeRoot := b.root, symCount := word b.count, total := word b.total
      codeLen := c.len, codeBits := c.bits, maxCodeLen := word c.maxLen
      payload := Memory.filled (s.draws + 1) (packBits bits), payLen := word (packedLen bits)
      pad := word (padCount bits), bitLen := word bits.length
      treeValid := true, codesValid := true, payloadValid := true, heap := HeapArray.drawn s.draws
      draws := s.draws + 1 + 1 } := by
  simp only [State.planned, State.packedWith, State.setPayload, State.invAll, State.invTree, State.invPay,
    State.invCodes]

/-- ENCODE's state after ANALYZE. -/
def State.analyzed (s : State) : State :=
  { s.invAll with
    freq := countSymbols s.input, symCount := word (present (countSymbols s.input)).length, total := s.inLen }

theorem encodeBody_empty {s : State} (h : s.inLen = 0#32) :
    encodeBody s = serializeBody s.analyzed.emptyPayload := by
  simp only [encodeBody, analyzeBody, Effect.andThen, State.invAll_inLen, if_pos h]
  rfl

theorem encodeBody_nonempty {s : State} (h : s.inLen ≠ 0#32) :
    encodeBody s = (buildTreeBody s.analyzed).andThen fun s => (genCodesBody s).andThen fun s =>
      (packBody s).andThen serializeBody := by
  simp only [encodeBody, analyzeBody, Effect.andThen, State.invAll_inLen, if_neg h]
  rfl

theorem encodeBody_planned {s : State} {b : Built} {c : Codes} (h : s.inLen ≠ 0#32)
    (hb : buildTree (countSymbols s.input) = .ok b) (hc : genCodes b.arena b.root = .ok c) :
    encodeBody s = (packBody (s.planned (countSymbols s.input) b c)).andThen serializeBody := by
  rw [encodeBody_nonempty h, buildTreeBody_ok (s := s.analyzed) hb, Effect.andThen,
    genCodesBody_ok (c := c) rfl hc]
  rfl

/-- Settles O50: PACK's answer on the planned state, then SERIALIZE's. -/
theorem encodeCompletes : Obligations.EncodeCompletes := by
  unfold Obligations.EncodeCompletes
  intro s b c bits hwf hne hb hc hbits
  obtain ⟨-, -, -, -, hcap⟩ := Params.wf_iff.1 hwf
  have hbody := encodeBody_planned hne hb hc
  generalize countSymbols s.input = F at hbody ⊢
  have hbits' : encodeBits (s.planned F b c).codes 0 (s.planned F b c).input = .ok bits := hbits
  have hserialize (hfits : packedLen bits ≤ s.params.payCap) :
      encodeBody s = serializeBody ((s.planned F b c).packedWith bits) ∧
      ((s.planned F b c).packedWith bits).blob = serialize F (packBits bits) (padCount bits) := by
    rw [hbody, packBody_fits rfl hbits' hfits]
    exact ⟨rfl, State.blob_packedWith _ (by omega)⟩
  generalize serialize F (packBits bits) (padCount bits) = blob at hserialize ⊢
  refine ⟨fun hfits hout => ?_, fun hover => ?_, fun hfits hout => ?_⟩
  · obtain ⟨hser, hblob⟩ := hserialize hfits
    refine ⟨Memory.filled (s.draws + 1) (packBits bits), Memory.filled (s.draws + 1 + 1) blob, HeapArray.drawn s.draws,
      s.draws + 1 + 1 + 1, ?_, bytes_filled_packBits .., Memory.bytes_filled ..⟩
    rw [exec, execEncode, hser, serializeBody_fits rfl (by rw [hblob]; exact hout), hblob,
      State.packedWith_planned]
    simp only [Effect.outcome, State.setOutput, State.complete, State.succeed]
  · refine ⟨Memory.filled (s.draws + 1) [], HeapArray.drawn s.draws, s.draws + 2, ?_⟩
    rw [exec, execEncode, hbody, packBody_overflows rfl hbits' hover]
    simp only [Effect.andThen, Effect.outcome, State.raise, State.complete, State.planned, State.setPayload,
      State.invAll, State.invTree, State.invPay, State.invCodes]
  · obtain ⟨hser, hblob⟩ := hserialize hfits
    refine ⟨Memory.filled (s.draws + 1) (packBits bits), Memory.filled (s.draws + 1 + 1) [], HeapArray.drawn s.draws,
      s.draws + 1 + 1 + 1, ?_, bytes_filled_packBits ..⟩
    rw [exec, execEncode, hser, serializeBody_overflows rfl (by rw [hblob]; exact hout), hblob,
      State.packedWith_planned]
    simp only [Effect.outcome, State.setOutput, State.complete, State.raise]
    rfl

/-! ### The empty input -/

/-- The blob of the empty input (41_encode R186). -/
theorem serialize_empty : serialize (countSymbols []) [] 0 =
    [0#8, 0#8, 0#8, 0#8, 0x48#8, 0x45#8, 0x41#8, 0x44#8, 0x45#8, 0x52#8, 0x5F#8, 0x45#8, 0x4E#8, 0x44#8,
      0#8, 0#8, 0#8, 0#8, 0#8, 0#8, 0#8, 0#8] := by
  rw [serialize, present_countSymbols_nil]
  decide

theorem length_serialize_empty : (serialize (countSymbols []) [] 0).length = 22 := by rw [serialize_empty]; rfl

theorem State.blob_emptyPayload {s : State} (h : s.inLen = 0#32) :
    s.analyzed.emptyPayload.blob = serialize (countSymbols []) [] 0 := by
  show serialize (countSymbols s.input) [] 0 = _
  rw [State.input_eq_nil.2 h]

/-- ENCODE of the empty input with every field it writes. -/
theorem exec_encode_empty {s : State} (hwf : s.params.wf = true) (h : s.inLen = 0#32) :
    exec .encode s = .next { s with
      freq := countSymbols [], symCount := 0#32, total := 0#32,
      treeValid := false, codesValid := false, treeRoot := 0, maxCodeLen := 0#32,
      payloadValid := true, payload := Memory.filled s.draws [], payLen := 0#32, pad := 0#32, bitLen := 0#32,
      outBuf := Memory.filled (s.draws + 1) (serialize (countSymbols []) [] 0), outLen := 22#32, draws := s.draws + 2,
      phase := .idle, done := true, err := .none, errInfo := 0#32 } := by
  obtain ⟨-, ⟨-, hcap, -⟩, -⟩ := Params.wf_iff.1 hwf
  have hblob := State.blob_emptyPayload h
  have hlen_word : word (serialize (countSymbols []) [] 0).length = 22#32 := by rw [length_serialize_empty]; rfl
  have hfreq : s.analyzed.freq = countSymbols [] := by
    show countSymbols s.input = _
    rw [State.input_eq_nil.2 h]
  have hcount : s.analyzed.symCount = 0#32 := by
    show word (present s.analyzed.freq).length = _
    rw [hfreq, present_countSymbols_nil]
    rfl
  rw [exec, execEncode, encodeBody_empty h,
    serializeBody_fits rfl (by rw [hblob, length_serialize_empty]; exact Nat.le_trans (by decide) hcap), hblob]
  generalize serialize (countSymbols []) [] 0 = blob at hlen_word ⊢
  simp only [Effect.outcome, State.setOutput, State.succeed, State.complete, State.emptyPayload, State.setPayload,
    hfreq, hcount, hlen_word]
  simp only [State.analyzed, State.invAll, State.invTree, State.invPay, State.invCodes, h]

/-- Settles O52: every field of the state after ENCODE of the empty input. -/
theorem encodeOfEmptyInput : Obligations.EncodeOfEmptyInput := by
  unfold Obligations.EncodeOfEmptyInput
  intro s hwf hempty
  refine ⟨countSymbols [], Memory.filled s.draws [], Memory.filled (s.draws + 1) (serialize (countSymbols []) [] 0),
    s.draws + 2, exec_encode_empty hwf hempty, fun b => ?_, ?_⟩
  · rw [← toNat_eq_zero]
    exact freqOf_countSymbols (input := []) (by decide) b
  · rw [← serialize_empty]
    exact length_serialize_empty ▸ Memory.bytes_filled _ (serialize (countSymbols []) [] 0)

end Sys2Proof.Machine
end

section
/-! PROOFS. ENCODE's report (41_encode R185): CAPACITY is its only error from a state that meets the invariant, and
report and blob depend on the input and the capacities alone. -/

namespace Sys2Proof.Machine

/-! ### The errors of ENCODE -/

theorem State.Inv.length_input_le {s : State} (hinv : s.Inv) : s.input.length ≤ 1048576 := by
  obtain ⟨⟨-, -, hcap⟩, -⟩ := Params.wf_iff.1 hinv.params
  rw [State.length_input]
  exact hinv.inLen.trans hcap

/-- A non-empty input of a state that meets the invariant has a plan. -/
theorem State.Inv.encode_plan {s : State} (hinv : s.Inv) (hne : s.inLen ≠ 0#32) :
    ∃ b c, buildTree (countSymbols s.input) = .ok b ∧ genCodes b.arena b.root = .ok c ∧
      encodeBits c 0 s.input = .ok (s.input.flatMap c.code) := by
  obtain ⟨b, hb⟩ := buildTree_countSymbols hinv.length_input_le fun h => hne (State.input_eq_nil.1 h)
  obtain ⟨c, hc⟩ := genCodes_of_buildTree hb
  exact ⟨b, c, hb, hc, encodeBits_countSymbols s.length_input_lt hb hc⟩

/-- What ENCODE reports on a planned input: the payload's length is compared first, then the blob's (41_encode R185). -/
def encodeReport (p : Params) (F : Table Word) (bits : Bits) : ErrCode × Word :=
  if p.payCap < packedLen bits then (.capacity, word (packedLen bits))
  else if p.outCap < (serialize F (packBits bits) (padCount bits)).length then
    (.capacity, word (serialize F (packBits bits) (padCount bits)).length)
  else (.none, 0#32)

/-- ENCODE of a planned input: its report and, on success, its output and its payload's length. -/
theorem exec_encode_planned {s : State} {b : Built} {c : Codes} {bits : Bits} (hwf : s.params.wf = true)
    (hne : s.inLen ≠ 0#32) (hb : buildTree (countSymbols s.input) = .ok b) (hc : genCodes b.arena b.root = .ok c)
    (hbits : encodeBits c 0 s.input = .ok bits) :
    ∃ t, exec .encode s = .next t ∧ (t.err, t.errInfo) = encodeReport s.params (countSymbols s.input) bits ∧
      (t.err = .none → t.output = serialize (countSymbols s.input) (packBits bits) (padCount bits) ∧
        t.payLen.toNat = packedLen bits ∧ packedLen bits ≤ s.params.payCap) := by
  obtain ⟨hfit, hpay, hout⟩ := encodeCompletes s b c bits hwf hne hb hc hbits
  obtain ⟨-, ⟨-, -, hcap⟩, -, -, hpayCap⟩ := Params.wf_iff.1 hwf
  unfold encodeReport
  generalize serialize (countSymbols s.input) (packBits bits) (padCount bits) = blob at *
  rcases Nat.lt_or_ge s.params.payCap (packedLen bits) with hp | hp
  · obtain ⟨pm, hp', d, hexec⟩ := hpay hp
    exact ⟨_, hexec, by rw [if_pos hp], nofun⟩
  rw [if_neg (Nat.not_lt.2 hp)]
  rcases Nat.lt_or_ge s.params.outCap blob.length with ho | ho
  · obtain ⟨pm, om, hp', d, hexec, -⟩ := hout hp ho
    exact ⟨_, hexec, by rw [if_pos ho], nofun⟩
  · obtain ⟨pm, om, hp', d, hexec, -, hom⟩ := hfit hp ho
    refine ⟨_, hexec, by rw [if_neg (Nat.not_lt.2 ho)], fun _ => ⟨?_, toNat_word (by omega), hp⟩⟩
    rw [State.output, toNat_word (by omega), hom]

/-- Settles O51: the empty input succeeds and every other one has a plan, so only the capacities are left. -/
theorem encodeFailsOnlyForCapacity : Obligations.EncodeFailsOnlyForCapacity := by
  unfold Obligations.EncodeFailsOnlyForCapacity
  intro s hinv
  by_cases hempty : s.inLen = 0#32
  · exact ⟨_, exec_encode_empty hinv.params hempty, .inl rfl⟩
  · obtain ⟨b, c, hb, hc, hbits⟩ := hinv.encode_plan hempty
    obtain ⟨t, ht, hreport, -⟩ := exec_encode_planned hinv.params hempty hb hc hbits
    refine ⟨t, ht, ?_⟩
    have herr := congrArg Prod.fst hreport
    unfold encodeReport at herr
    split at herr
    · exact .inr herr
    · split at herr
      · exact .inr herr
      · exact .inl herr

/-! ### The blob depends only on the input -/

/-- ENCODE of an input whose counts no tree is built from reports BuildTree's error. -/
theorem exec_encode_unbuilt {s : State} {e : ErrCode} {v : Word} (hne : s.inLen ≠ 0#32)
    (hb : buildTree (countSymbols s.input) = .error (.err e v)) :
    ∃ t, exec .encode s = .next t ∧ t.err = e ∧ t.errInfo = v := by
  rw [exec, execEncode, encodeBody_nonempty hne, buildTreeBody_error (s := s.analyzed) hb]
  exact ⟨_, rfl, rfl, rfl⟩

theorem eq_of_next {o : Host.Outcome State Fault Refusal} {t t' : State} (h : o = .next t)
    (h' : o = .next t') : t = t' :=
  Host.Outcome.next.inj (h.symm.trans h')

/-- Two states whose common input has no tree report the same error. -/
theorem same_report_of_unbuilt {s s' t t' : State} {e : ErrCode} {v : Word} (hne : s.inLen ≠ 0#32)
    (hne' : s'.inLen ≠ 0#32) (hin : s.input = s'.input) (hb : buildTree (countSymbols s.input) = .error (.err e v))
    (he : e ≠ .none) (ht : exec .encode s = .next t) (ht' : exec .encode s' = .next t') :
    (t.err = .none → t'.err = .none → t.output = t'.output) ∧
      (s.params = s'.params → t.err = t'.err ∧ t.errInfo = t'.errInfo) := by
  obtain ⟨u, hu, herr, hinfo⟩ := exec_encode_unbuilt hne hb
  obtain ⟨u', hu', herr', hinfo'⟩ := exec_encode_unbuilt hne' (hin ▸ hb)
  obtain rfl := eq_of_next ht hu
  obtain rfl := eq_of_next ht' hu'
  exact ⟨fun h => absurd (herr.symm.trans h) he, fun _ => ⟨herr.trans herr'.symm, hinfo.trans hinfo'.symm⟩⟩

/-- The output of ENCODE of the empty input, read off its state. -/
theorem bytes_encode_empty (seed : Nat) :
    (Memory.filled seed (serialize (countSymbols []) [] 0)).bytes (22#32).toNat = serialize (countSymbols []) [] 0 :=
  length_serialize_empty ▸ Memory.bytes_filled seed (serialize (countSymbols []) [] 0)

/-- Settles O53: on the counts of the common input both runs find the same tree, codes and bits, or the same error. -/
theorem encodeDependsOnlyOnInput : Obligations.EncodeDependsOnlyOnInput := by
  unfold Obligations.EncodeDependsOnlyOnInput
  intro s s' t t' hlen hin hwf hwf' ht ht'
  by_cases hempty : s.inLen = 0#32
  · have hempty' : s'.inLen = 0#32 := hlen ▸ hempty
    obtain rfl := eq_of_next ht (exec_encode_empty hwf hempty)
    obtain rfl := eq_of_next ht' (exec_encode_empty hwf' hempty')
    refine ⟨fun _ _ => ?_, fun _ => ⟨rfl, rfl⟩⟩
    exact (bytes_encode_empty _).trans (bytes_encode_empty _).symm
  have hempty' : s'.inLen ≠ 0#32 := hlen ▸ hempty
  rcases buildTree_cases (countSymbols s.input) with ⟨b, hb⟩ | ⟨hb, -⟩ | ⟨x, hb, -⟩
  · obtain ⟨c, hc⟩ := genCodes_of_buildTree hb
    have hbits := encodeBits_countSymbols s.length_input_lt hb hc
    obtain ⟨u, hu, hreport, hout⟩ := exec_encode_planned hwf hempty hb hc hbits
    rw [hin] at hb hbits
    obtain ⟨u', hu', hreport', hout'⟩ := exec_encode_planned hwf' hempty' hb hc hbits
    obtain rfl := eq_of_next ht hu
    obtain rfl := eq_of_next ht' hu'
    refine ⟨fun h h' => ?_, fun hparams => ?_⟩
    · rw [(hout h).1, (hout' h').1, hin]
    · rw [hparams, hin, ← hreport', Prod.mk.injEq] at hreport
      exact hreport
  · exact same_report_of_unbuilt hempty hempty' hin hb (by decide) ht ht'
  · exact same_report_of_unbuilt hempty hempty' hin hb (by decide) ht ht'

end Sys2Proof.Machine
end

section
/-! PROOFS. DECODE (42_decode R212): PARSE's state, then BuildTree's, then the walk's answer; and DECODE of ENCODE's
output (40_datapath R167). -/

namespace Sys2Proof.Machine

theorem word_eq_zero {n : Nat} (h : n < 2 ^ 32) : word n = 0#32 ↔ n = 0 := by
  rw [← toNat_eq_zero, toNat_word h]

theorem count_of_parseBlob {B : List Byte} {r : Parsed} (h : parseBlob B = .ok r) : r.count ≤ 256 := by
  obtain ⟨-, -, hcount, -⟩ := eq_of_parseBlob h
  rw [hcount]
  exact length_present_le _

theorem decodeBody_empty {s : State} {r : Parsed} (hr : parseBlob s.input = .ok r)
    (hfits : r.payload.length ≤ s.params.payCap) (h : r.count = 0) :
    decodeBody s = .done ((s.parsed r).setOutput []) := by
  rw [decodeBody_of_parse (parseBody_fits hr hfits)]
  exact if_pos (congrArg word h)

/-- A blob with symbols that parses is walked with its tree. -/
theorem decodeBody_walk {s : State} {r : Parsed} {b : Built} (hr : parseBlob s.input = .ok r)
    (hfits : r.payload.length ≤ s.params.payCap) (h : r.count ≠ 0) (hb : buildTree r.freq = .ok b) :
    decodeBody s = walkBody ((s.parsed r).built b) := by
  have hcount := count_of_parseBlob hr
  rw [decodeBody_of_parse (parseBody_fits hr hfits),
    if_neg (show (s.parsed r).symCount ≠ 0#32 from fun h0 => h ((word_eq_zero (by omega)).1 h0)),
    buildTreeBody_ok (s := s.parsed r) hb]
  rfl

/-- The bits the walk reads are those of the blob's payload. -/
theorem State.unpackBits_parsed (s : State) {r : Parsed} (b : Built) (hlen : r.payload.length < 2 ^ 32)
    (hpad : r.pad ≤ 7) :
    unpackBits ((s.parsed r).built b).packed ((s.parsed r).built b).pad.toNat = unpackBits r.payload r.pad := by
  have hpacked : ((s.parsed r).built b).packed = r.payload := by
    show (Memory.filled s.draws r.payload).bytes (word r.payload.length).toNat = _
    rw [toNat_word hlen, Memory.bytes_filled]
  rw [hpacked, show ((s.parsed r).built b).pad = word r.pad from rfl, toNat_word (by omega)]

theorem decodeBody_walk_ok {s : State} {r : Parsed} {b : Built} {out : List Byte} (hwf : s.params.wf = true)
    (hr : parseBlob s.input = .ok r) (hfits : r.payload.length ≤ s.params.payCap) (h : r.count ≠ 0)
    (hb : buildTree r.freq = .ok b)
    (hw : walkBits b.arena b.root (unpackBits r.payload r.pad) s.params.outCap = .ok out) :
    decodeBody s = .done (((s.parsed r).built b).setOutput out) := by
  obtain ⟨-, -, -, -, hcap⟩ := Params.wf_iff.1 hwf
  obtain ⟨-, -, -, -, hpad, -⟩ := eq_of_parseBlob hr
  rw [decodeBody_walk hr hfits h hb]
  exact walkBody_ok rfl rfl (by rw [State.unpackBits_parsed s b (by omega) hpad]; exact hw)

theorem decodeBody_walk_error {s : State} {r : Parsed} {b : Built} {e : ErrCode} {v : Word} (hwf : s.params.wf = true)
    (hr : parseBlob s.input = .ok r) (hfits : r.payload.length ≤ s.params.payCap) (h : r.count ≠ 0)
    (hb : buildTree r.freq = .ok b)
    (hw : walkBits b.arena b.root (unpackBits r.payload r.pad) s.params.outCap = .error (e, v)) :
    decodeBody s = .raised (((s.parsed r).built b).setOutput []) e v := by
  obtain ⟨-, -, -, -, hcap⟩ := Params.wf_iff.1 hwf
  obtain ⟨-, -, -, -, hpad, -⟩ := eq_of_parseBlob hr
  rw [decodeBody_walk hr hfits h hb]
  exact walkBody_error rfl rfl (by rw [State.unpackBits_parsed s b (by omega) hpad]; exact hw)

/-- Every field of the state before DECODE's output is written. -/
theorem State.built_parsed (s : State) (r : Parsed) (b : Built) :
    (s.parsed r).built b = { s with
      freq := r.freq, symCount := word b.count, total := word b.total, node := b.arena, treeRoot := b.root
      payload := Memory.filled s.draws r.payload, payLen := word r.payload.length, pad := word r.pad
      bitLen := word (8 * r.payload.length - r.pad), treeValid := true, codesValid := false, payloadValid := true
      maxCodeLen := 0#32, heap := HeapArray.drawn (s.draws + 1), draws := s.draws + 1 + 1 } := by
  simp only [State.built, State.parsed, State.setPayload, State.loseHeap, State.invAll, State.invTree, State.invPay,
    State.invCodes]

/-- Settles O57: PARSE's answer, the number of symbols and the walk's answer decide. -/
theorem decodeDecodesOrReports : Obligations.DecodeDecodesOrReports := by
  unfold Obligations.DecodeDecodesOrReports
  intro s hwf
  refine ⟨fun r b out hr hfits hne hb hw => ?_, fun r hr h => ?_, fun o ho => ?_, fun r hr hover => ?_,
    fun r b e v hr hfits hne hb hw => ?_⟩
  · refine ⟨Memory.filled s.draws r.payload, Memory.filled (s.draws + 1 + 1) out, HeapArray.drawn (s.draws + 1),
      s.draws + 1 + 1 + 1, ?_, Memory.bytes_filled .., Memory.bytes_filled ..⟩
    rw [exec, execDecode, decodeBody_walk_ok hwf hr hfits hne hb hw, State.built_parsed]
    simp only [Effect.outcome, State.setOutput, State.complete, State.succeed]
  · obtain ⟨-, -, hcount, -, -, hpad, hpayload⟩ := eq_of_parseBlob hr
    have hnil : r.payload = [] := hpayload (List.length_eq_zero_iff.1 (hcount ▸ h))
    refine ⟨Memory.filled s.draws [], Memory.filled (s.draws + 1) [], s.draws + 1 + 1, ?_⟩
    rw [exec, execDecode, decodeBody_empty hr (by simp [hnil]) h]
    simp only [Effect.outcome, State.setOutput, State.complete, State.succeed, State.parsed, State.setPayload,
      State.invAll, State.invTree, State.invPay, State.invCodes, h, hnil, hpad hnil]
    rfl
  · rw [exec, execDecode, decodeBody_of_parse_raised (parseBody_malformed ho)]
    exact parseFailed_completes s _ _
  · rw [exec, execDecode, decodeBody_of_parse_raised (parseBody_overflows hr hover)]
    exact parseFailed_completes s _ _
  · refine ⟨Memory.filled s.draws r.payload, Memory.filled (s.draws + 1 + 1) [], HeapArray.drawn (s.draws + 1),
      s.draws + 1 + 1 + 1, ?_, Memory.bytes_filled ..⟩
    rw [exec, execDecode, decodeBody_walk_error hwf hr hfits hne hb hw, State.built_parsed]
    simp only [Effect.outcome, State.setOutput, State.complete, State.raise]
    rfl

/-! ### DECODE of ENCODE's output -/

/-- DECODE of a blob of no symbol succeeds with no output. -/
theorem exec_decode_empty {u : State} {r : Parsed} (hwf : u.params.wf = true) (hr : parseBlob u.input = .ok r)
    (h : r.count = 0) : ∃ v, exec .decode u = .next v ∧ v.err = .none ∧ v.output = [] := by
  obtain ⟨-, hempty, -⟩ := decodeDecodesOrReports u hwf
  obtain ⟨pm, om, d, hexec⟩ := hempty r hr h
  exact ⟨_, hexec, rfl, rfl⟩

/-- DECODE of a blob whose walk succeeds has the walk's output. -/
theorem exec_decode_walk {u : State} {r : Parsed} {b : Built} {out : List Byte} (hwf : u.params.wf = true)
    (hr : parseBlob u.input = .ok r) (hfits : r.payload.length ≤ u.params.payCap) (h : r.count ≠ 0)
    (hb : buildTree r.freq = .ok b)
    (hw : walkBits b.arena b.root (unpackBits r.payload r.pad) u.params.outCap = .ok out) (hout : out.length < 2 ^ 32) :
    ∃ v, exec .decode u = .next v ∧ v.err = .none ∧ v.output = out := by
  obtain ⟨hok, -⟩ := decodeDecodesOrReports u hwf
  obtain ⟨pm, om, hp, d, hexec, -, hom⟩ := hok r b out hr hfits h hb hw
  exact ⟨_, hexec, rfl, by rw [State.output, toNat_word hout, hom]⟩

theorem packBits_eq_nil {bits : Bits} (h : packBits bits = []) : padCount bits = 0 := by
  have hlen : packedLen bits = 0 := by rw [← length_packBits, h, List.length_nil]
  simp only [packedLen, padCount] at *
  omega

/-- The blob made of a non-empty input's counts, bits and padding parses to them. -/
theorem parseBlob_serialize_packBits {F : Table Word} {b : Built} {bits : Bits} (hb : buildTree F = .ok b)
    (hlen : packedLen bits ≤ 1048576) :
    parseBlob (serialize F (packBits bits) (padCount bits)) =
      .ok { freq := F, count := (present F).length, total := freqSum F allSymbols, payload := packBits bits
            pad := padCount bits } := by
  obtain ⟨hlegal, hne, -⟩ := buildTree_ok_iff.1 hb
  refine parseBlob_serialize hlegal ?_ (padCount_le bits) packBits_eq_nil fun h => absurd h hne
  rw [length_packBits]
  exact hlen.trans (by decide)

/-- Settles O58: DECODE's PARSE inverts ENCODE's SERIALIZE (O41), and on the tree of the same table its WALK inverts
PACK (O38). -/
theorem decodeInvertsEncode : Obligations.DecodeInvertsEncode := by
  unfold Obligations.DecodeInvertsEncode
  intro s t u hinv ht herr hwf hin hpay hout
  by_cases hempty : s.inLen = 0#32
  · obtain rfl := eq_of_next ht (exec_encode_empty hinv.params hempty)
    have hnil := present_countSymbols_nil
    have hblob : u.input = serialize (countSymbols []) [] 0 := hin.trans (bytes_encode_empty _)
    have hlegal : FreqLegal (countSymbols []) := freqLegal_countSymbols (by decide)
    rw [State.input_eq_nil.2 hempty]
    exact exec_decode_empty hwf (hblob ▸ parseBlob_serialize hlegal (by decide) (by decide) (fun _ => rfl) fun _ => rfl)
      (congrArg List.length hnil)
  · obtain ⟨b, c, hb, hc, hbits⟩ := hinv.encode_plan hempty
    obtain ⟨t', ht', -, hsuccess⟩ := exec_encode_planned hinv.params hempty hb hc hbits
    obtain rfl := eq_of_next ht ht'
    obtain ⟨hblob, hpayLen, hfits⟩ := hsuccess herr
    obtain ⟨-, -, -, -, hpayCap⟩ := Params.wf_iff.1 hinv.params
    have hr := parseBlob_serialize_packBits hb (hfits.trans hpayCap)
    rw [← hblob, ← hin] at hr
    obtain ⟨-, hne, -⟩ := buildTree_ok_iff.1 hb
    have hinLen : s.input.length ≤ u.params.outCap := s.length_input ▸ hout
    refine exec_decode_walk hwf hr ?_ (fun h => hne (List.length_eq_zero_iff.1 h)) hb
      (walkInvertsEncode _ b c s.input _ _ hb hc hbits hinLen) s.length_input_lt
    exact (length_packBits _).trans_le (hpayLen ▸ hpay)

end Sys2Proof.Machine
end

section
/-! PROOFS. The invariant (10_state R40 to R48, R52, R53): reset and every write of the state keep it, so every
command's body does, and what the body raises is one of the command's errors (60_exceptions R300). -/

namespace Sys2Proof.Machine

theorem toNat_word_le (n : Nat) : (word n).toNat ≤ n := (BitVec.toNat_ofNat ..).trans_le (Nat.mod_le ..)

/-! ### Reset and the writes of single fields -/

/-- Settles O17: at reset nothing is valid and every register is 0. -/
theorem invariantHoldsAtReset : Obligations.InvariantHoldsAtReset := by
  unfold Obligations.InvariantHoldsAtReset
  exact fun p d hp =>
    { params := hp
      inLen := Nat.zero_le _
      outLen := Nat.zero_le _
      inBuf := ⟨rfl, rfl⟩
      payload := ⟨rfl, rfl⟩
      outBuf := ⟨rfl, rfl⟩
      busy := nofun
      noError := fun _ => rfl
      noEmptyQueue := nofun
      symCount := Nat.zero_le _
      total := Nat.zero_le _
      tree := nofun
      noTree := fun _ => rfl
      codes := nofun
      noCodes := fun _ => rfl
      pay := nofun
      noPay := fun _ => ⟨rfl, rfl, rfl⟩ }

theorem State.Inv.resetEvent {s : State} (h : s.Inv) : s.resetEvent.Inv :=
  { invariantHoldsAtReset s.params s.draws h.params with }

theorem State.Inv.invCodes {s : State} (h : s.Inv) : s.invCodes.Inv :=
  { h with codes := nofun, noCodes := fun _ => rfl }

theorem State.Inv.invTree {s : State} (h : s.Inv) : s.invTree.Inv :=
  { h with codes := nofun, noCodes := fun _ => rfl, tree := nofun, noTree := fun _ => rfl }

theorem State.Inv.invPay {s : State} (h : s.Inv) : s.invPay.Inv :=
  { h with pay := nofun, noPay := fun _ => ⟨rfl, rfl, rfl⟩ }

theorem State.Inv.invAll {s : State} (h : s.Inv) : s.invAll.Inv := h.invTree.invPay

/-- After inv-all FREQ and the report of its symbols are free within their ranges. -/
theorem State.Inv.freq_of_invAll {s : State} (h : s.Inv) {F : Table Word} {n total : Word} (hn : n.toNat ≤ 256)
    (htotal : total.toNat ≤ Config.int32Max) : State.Inv { s.invAll with freq := F, symCount := n, total := total } :=
  { h.invAll with tree := nofun, pay := nofun, symCount := hn, total := htotal }

theorem State.Inv.setPayload {s : State} (h : s.Inv) {bs : List Byte} (hbs : bs.length ≤ s.params.payCap) :
    (s.setPayload bs).Inv :=
  { h with payload := ⟨Memory.wf_filled _ _, Memory.within_filled _ hbs⟩ }

theorem State.Inv.setOutput {s : State} (h : s.Inv) {bs : List Byte} (hbs : bs.length ≤ s.params.outCap) :
    (s.setOutput bs).Inv :=
  { h with
    outBuf := ⟨Memory.wf_filled _ _, Memory.within_filled _ hbs⟩
    outLen := (toNat_word_le _).trans hbs }

/-! ### The results of the steps -/

theorem State.Inv.analyzed {s : State} (h : s.Inv) : s.analyzed.Inv := by
  obtain ⟨⟨-, -, hcap⟩, -⟩ := Params.wf_iff.1 h.params
  exact h.freq_of_invAll ((toNat_word_le _).trans (length_present_le _)) ((h.inLen.trans hcap).trans (by decide))

/-- BUILD_TREE of FREQ writes what TREE_VALID = 1 promises. -/
theorem State.Inv.built {s : State} (h : s.Inv) {b : Built} (hb : buildTree s.freq = .ok b) : (s.built b).Inv :=
  have hshape := builtTreeHasItsShape s.freq b hb
  { h.invCodes with
    tree := fun _ => ⟨b.count, b.total, hb⟩
    noTree := nofun
    codes := nofun
    symCount := (toNat_word_le _).trans (hshape.count.trans_le (length_present_le _))
    total := (toNat_word_le _).trans hshape.totalBound }

theorem State.Inv.coded {s : State} (h : s.Inv) {c : Codes} (hv : s.treeValid = true)
    (hc : genCodes s.node s.treeRoot = .ok c) : (s.coded c).Inv :=
  { h with codes := fun _ => ⟨hv, hc, rfl⟩, noCodes := nofun }

theorem State.Inv.freqLegal {s : State} (h : s.Inv) (hv : s.treeValid = true) : FreqLegal s.freq := by
  obtain ⟨count, total, hb⟩ := h.tree hv
  exact (buildTree_ok_iff.1 hb).1

theorem State.Inv.packedWith {s : State} (h : s.Inv) {bits : Bits} (hv : s.codesValid = true)
    (hfits : packedLen bits ≤ s.params.payCap) : (s.packedWith bits).Inv := by
  obtain ⟨-, -, -, -, hcap⟩ := Params.wf_iff.1 h.params
  have hpad := padCount_le bits
  have hlen : 8 * packedLen bits = bits.length + padCount bits := by
    simp only [packedLen, padCount]
    omega
  refine { h.setPayload (bs := packBits bits) ((length_packBits bits).trans_le hfits) with
    pay := fun _ => ⟨(toNat_word_le _).trans hfits, (toNat_word_le _).trans hpad, fun h0 => ?_, ?_,
      h.freqLegal (h.codes hv).1⟩
    noPay := nofun }
  · have h0 : packedLen bits = 0 := (word_eq_zero (by omega)).1 h0
    exact congrArg word (by omega)
  · show (word bits.length).toNat + (word (padCount bits)).toNat = 8 * (word (packedLen bits)).toNat
    rw [toNat_word (by omega), toNat_word (by omega), toNat_word (by omega), hlen]

theorem State.Inv.emptyPayload {s : State} (h : s.Inv) (hF : FreqLegal s.freq) : s.emptyPayload.Inv :=
  { h.setPayload (bs := []) (Nat.zero_le _) with
    pay := fun _ => ⟨Nat.zero_le _, Nat.zero_le _, fun _ => rfl, rfl, hF⟩
    noPay := nofun }

theorem State.Inv.parsed {s : State} (h : s.Inv) {r : Parsed} (hr : parseBlob s.input = .ok r)
    (hfits : r.payload.length ≤ s.params.payCap) : (s.parsed r).Inv := by
  obtain ⟨-, -, -, -, hcap⟩ := Params.wf_iff.1 h.params
  obtain ⟨-, hF, -, htotal, hpad, hnil, -⟩ := eq_of_parseBlob hr
  refine { h.invAll.setPayload (bs := r.payload) hfits with
    tree := nofun
    codes := nofun
    symCount := (toNat_word_le _).trans (count_of_parseBlob hr)
    total := (toNat_word_le _).trans (htotal.trans_le hF.2)
    pay := fun _ => ⟨(toNat_word_le _).trans hfits, (toNat_word_le _).trans hpad, fun h0 => ?_, ?_, hF⟩
    noPay := nofun }
  · have h0 : r.payload.length = 0 := (word_eq_zero (by omega)).1 h0
    exact congrArg word (hnil (List.length_eq_zero_iff.1 h0))
  · show (word (8 * r.payload.length - r.pad)).toNat + (word r.pad).toNat = 8 * (word r.payload.length).toNat
    have hle : r.pad ≤ 8 * r.payload.length := by
      rcases Nat.eq_zero_or_pos r.payload.length with h0 | hpos
      · rw [hnil (List.length_eq_zero_iff.1 h0)]
        exact Nat.zero_le _
      · omega
    rw [toNat_word (by omega), toNat_word (by omega), toNat_word (by omega), Nat.sub_add_cancel hle]

theorem State.Inv.parseFailed {s : State} (h : s.Inv) : s.parseFailed.Inv :=
  { h.invAll.setPayload (bs := []) (Nat.zero_le _) with
    tree := nofun, pay := nofun, symCount := Nat.zero_le _, total := Nat.zero_le _ }

theorem State.Inv.clearDatapath {s : State} (h : s.Inv) : s.clearDatapath.Inv :=
  { h.invAll with
    tree := nofun, codes := nofun, pay := nofun, symCount := Nat.zero_le _, total := Nat.zero_le _
    outLen := Nat.zero_le _ }

end Sys2Proof.Machine
end

section
/-! PROOFS. The commands' bodies keep the invariant and raise only listed errors (60_exceptions R300), so every step
keeps it. -/

namespace Sys2Proof.Machine

/-! ### The walk's answer -/

/-- An answer of the walk with `room` bytes left: it fits, or the error is one of WALK's own two (40_datapath R165). -/
def WalkAnswers (room : Nat) : Except (ErrCode × Word) (List Byte) → Prop
  | .ok out => out.length ≤ room
  | .error (e, _) => e = .truncatedStream ∨ e = .capacity

theorem walkLeaf_answers (cap : Nat) (s : Byte) (bits : Bits) (room : Nat) :
    WalkAnswers room (walkLeaf cap s room bits) := by
  induction bits generalizing room with
  | nil => cases room <;> exact Nat.zero_le _
  | cons b bits ih =>
    cases room with
    | zero => exact .inr rfl
    | succ room =>
      have hih := ih room
      rw [walkLeaf]
      cases hrest : walkLeaf cap s room bits <;> rw [hrest] at hih
      · exact hih
      · exact Nat.succ_le_succ hih

theorem walkFrom_answers (A : Arena) (root : NodeIdx) (cap : Nat) (bits : Bits) (room t start : Nat) (cur : NodeIdx) :
    WalkAnswers room (walkFrom A root cap room t start cur bits) := by
  induction bits generalizing room t start cur with
  | nil =>
    rw [walkFrom]
    split
    · exact .inl rfl
    · exact Nat.zero_le _
  | cons b bits ih =>
    rw [walkFrom]
    split
    · exact ih ..
    · cases room with
      | zero => exact .inr rfl
      | succ room =>
        have hih := ih room (t + 1) (if cur = root then t else start) root
        dsimp only
        split <;> rename_i hrest <;> rw [hrest] at hih
        · exact hih
        · exact Nat.succ_le_succ hih

theorem walkBits_answers (A : Arena) (root : NodeIdx) (bits : Bits) (cap : Nat) :
    WalkAnswers cap (walkBits A root bits cap) := by
  unfold walkBits
  split
  · exact walkLeaf_answers ..
  · exact walkFrom_answers ..

/-! ### The bodies -/

theorem State.Inv.serializeBody {s : State} (h : s.Inv) (hv : s.payloadValid = true) :
    (serializeBody s).Ensures False State.Inv fun t e _ => t.Inv ∧ e = .capacity := by
  rcases Nat.lt_or_ge s.params.outCap s.blob.length with hover | hfits
  · rw [serializeBody_overflows hv hover]
    exact ⟨h.setOutput (Nat.zero_le _), rfl⟩
  · rw [serializeBody_fits hv hfits]
    exact h.setOutput hfits

theorem State.Inv.packBody {s : State} (h : s.Inv) (hv : s.codesValid = true) :
    (packBody s).Ensures False (fun t => t.Inv ∧ t.payloadValid = true) fun t e _ =>
      t.Inv ∧ (e = .unknownSymbol ∨ e = .capacity) := by
  have hlost : (s.invPay.setPayload []).Inv := h.invPay.setPayload (Nat.zero_le _)
  cases hbits : encodeBits s.codes 0 s.input with
  | error i =>
    rw [packBody_unknown hv hbits]
    exact ⟨hlost, .inl rfl⟩
  | ok bits =>
    rcases Nat.lt_or_ge s.params.payCap (packedLen bits) with hover | hfits
    · rw [packBody_overflows hv hbits hover]
      exact ⟨hlost, .inr rfl⟩
    · rw [packBody_fits hv hbits hfits]
      exact ⟨h.packedWith hv hfits, rfl⟩

theorem State.Inv.walkBody {s : State} (h : s.Inv) (ht : s.treeValid = true) (hp : s.payloadValid = true) :
    (walkBody s).Ensures False State.Inv fun t e _ => t.Inv ∧ (e = .truncatedStream ∨ e = .capacity) := by
  have hanswers := walkBits_answers s.node s.treeRoot (unpackBits s.packed s.pad.toNat) s.params.outCap
  cases hw : walkBits s.node s.treeRoot (unpackBits s.packed s.pad.toNat) s.params.outCap with
  | error ev =>
    obtain ⟨e, v⟩ := ev
    rw [hw] at hanswers
    rw [walkBody_error ht hp hw]
    exact ⟨h.setOutput (Nat.zero_le _), hanswers⟩
  | ok out =>
    rw [hw] at hanswers
    rw [walkBody_ok ht hp hw]
    exact h.setOutput hanswers

theorem State.Inv.buildTreeBody {s : State} (h : s.Inv) :
    (buildTreeBody s).Ensures False State.Inv fun t e _ => t.Inv ∧ (e = .emptyInput ∨ e = .malformedHeader) := by
  have hfailed : State.Inv { s.invTree with symCount := 0#32, total := 0#32 } :=
    { h.invTree with symCount := Nat.zero_le _, total := Nat.zero_le _ }
  rcases buildTree_cases s.freq with ⟨b, hb⟩ | ⟨hb, -⟩ | ⟨x, hb, -⟩
  · rw [buildTreeBody_ok hb]
    exact h.built hb
  · rw [buildTreeBody_error hb]
    exact ⟨hfailed, .inl rfl⟩
  · rw [buildTreeBody_error hb]
    exact ⟨hfailed, .inr rfl⟩

theorem State.Inv.parseBody {s : State} (h : s.Inv) :
    (parseBody s).Ensures False State.Inv fun t e _ => t.Inv ∧ (e = .malformedHeader ∨ e = .capacity) := by
  cases hr : parseBlob s.input with
  | error o =>
    rw [parseBody_malformed hr]
    exact ⟨h.parseFailed, .inl rfl⟩
  | ok r =>
    rcases Nat.lt_or_ge s.params.payCap r.payload.length with hover | hfits
    · rw [parseBody_overflows hr hover]
      exact ⟨h.parseFailed, .inr rfl⟩
    · rw [parseBody_fits hr hfits]
      exact h.parsed hr hfits

/-- A blob of some symbols that parses holds the counts of a tree. -/
theorem buildTree_of_parseBlob {B : List Byte} {r : Parsed} (hr : parseBlob B = .ok r) (hne : r.count ≠ 0) :
    ∃ b, buildTree r.freq = .ok b := by
  obtain ⟨-, hF, hcount, -⟩ := eq_of_parseBlob hr
  exact buildTree_of_legal hF fun h => hne (hcount.trans (congrArg List.length h))

/-- ENCODE's steps from a state that meets the invariant: the tree and the codes exist, so PACK's and SERIALIZE's errors
are all there is, and every byte has a code (41_encode R185). -/
theorem State.Inv.encodeBody {s : State} (h : s.Inv) :
    (encodeBody s).Ensures False State.Inv fun t e _ => t.Inv ∧ (e = .unknownSymbol ∨ e = .capacity) := by
  by_cases hempty : s.inLen = 0#32
  · rw [encodeBody_empty hempty]
    exact ((h.analyzed.emptyPayload (freqLegal_countSymbols h.length_input_le)).serializeBody rfl).mono
      (fun _ => id) fun _ _ _ ⟨ht, he⟩ => ⟨ht, .inr he⟩
  · obtain ⟨b, c, hb, hc, -⟩ := h.encode_plan hempty
    rw [encodeBody_nonempty hempty, buildTreeBody_ok (s := s.analyzed) hb, Effect.andThen,
      genCodesBody_ok (c := c) rfl hc, Effect.andThen]
    have hcoded : ((s.analyzed.built b).coded c).Inv := (h.analyzed.built hb).coded rfl hc
    exact (hcoded.packBody rfl).andThen fun t ⟨ht, hv⟩ =>
      (ht.serializeBody hv).mono (fun _ => id) fun _ _ _ ⟨ht, he⟩ => ⟨ht, .inr he⟩

/-- DECODE's steps: the table of a blob that parses is legal, so BUILD_TREE inside it succeeds. -/
theorem State.Inv.decodeBody {s : State} (h : s.Inv) :
    (decodeBody s).Ensures False State.Inv fun t e _ =>
      t.Inv ∧ (e = .malformedHeader ∨ e = .capacity ∨ e = .truncatedStream) := by
  cases hr : parseBlob s.input with
  | error o =>
    rw [decodeBody_of_parse_raised (parseBody_malformed hr)]
    exact ⟨h.parseFailed, .inl rfl⟩
  | ok r =>
    rcases Nat.lt_or_ge s.params.payCap r.payload.length with hover | hfits
    · rw [decodeBody_of_parse_raised (parseBody_overflows hr hover)]
      exact ⟨h.parseFailed, .inr (.inl rfl)⟩
    have hparsed := h.parsed hr hfits
    by_cases hcount : r.count = 0
    · rw [decodeBody_empty hr hfits hcount]
      exact hparsed.setOutput (Nat.zero_le _)
    · obtain ⟨b, hb⟩ := buildTree_of_parseBlob hr hcount
      rw [decodeBody_walk hr hfits hcount hb]
      exact ((hparsed.built hb).walkBody rfl rfl).mono (fun _ => id) fun _ _ _ ⟨ht, he⟩ => ⟨ht, .inr he.symm⟩

/-- Every command's body keeps the invariant, and what it raises is listed for it. -/
theorem State.Inv.bodyOf {s : State} (h : s.Inv) (i : Instr) :
    (bodyOf i s).Ensures False State.Inv fun t e _ => t.Inv ∧ e ∈ i.mayRaise := by
  cases i with
  | nop => exact h
  | clear => exact h.clearDatapath
  | analyze => exact h.analyzed
  | buildTree => exact h.buildTreeBody.mono (fun _ => id) fun _ e _ ⟨ht, he⟩ => ⟨ht, by simpa [Instr.mayRaise] using he⟩
  | genCodes =>
    rcases genCodesBody_cases s with ⟨hv, hbody⟩ | ⟨f, hv, hf, hbody⟩ | ⟨c, hv, hc, hbody⟩ <;>
      rw [Machine.bodyOf, hbody]
    · exact ⟨h, by decide⟩
    · obtain ⟨c, hc⟩ := h.genCodes_ok hv
      exact absurd (hf.symm.trans hc) nofun
    · exact h.coded hv hc
  | pack =>
    rcases Bool.eq_false_or_eq_true s.codesValid with hv | hv
    · exact (h.packBody hv).mono (fun _ => And.left) fun _ e _ ⟨ht, he⟩ => ⟨ht, by simp [Instr.mayRaise, he]⟩
    · rw [Machine.bodyOf, Machine.packBody, if_pos hv]
      exact ⟨h, by decide⟩
  | serialize =>
    rcases Bool.eq_false_or_eq_true s.payloadValid with hv | hv
    · exact (h.serializeBody hv).mono (fun _ => id) fun _ e _ ⟨ht, he⟩ => ⟨ht, by simp [Instr.mayRaise, he]⟩
    · rw [Machine.bodyOf, Machine.serializeBody, if_pos hv]
      exact ⟨h, by decide⟩
  | encode =>
    exact h.encodeBody.mono (fun _ => id) fun _ e _ ⟨ht, he⟩ => ⟨ht, by simpa [Instr.mayRaise, or_comm] using he⟩
  | parse => exact h.parseBody.mono (fun _ => id) fun _ e _ ⟨ht, he⟩ => ⟨ht, by simpa [Instr.mayRaise] using he⟩
  | walk =>
    by_cases hm : s.walkMissing = 0#32
    · obtain ⟨htree, hpay⟩ := State.walkMissing_eq_zero.1 hm
      exact (h.walkBody htree hpay).mono (fun _ => id) fun _ e _ ⟨ht, he⟩ => ⟨ht, by simp [Instr.mayRaise, he]⟩
    · rw [Machine.bodyOf, Machine.walkBody, if_pos hm]
      exact ⟨h, by decide⟩
  | decode => exact h.decodeBody.mono (fun _ => id) fun _ e _ ⟨ht, he⟩ => ⟨ht, by simpa [Instr.mayRaise] using he⟩

/-! ### Completion -/

theorem State.Inv.succeed {s : State} (h : s.Inv) : s.succeed.complete.Inv :=
  { h with busy := nofun, noError := fun _ => rfl, noEmptyQueue := nofun }

theorem State.Inv.raise {s : State} (h : s.Inv) {e : ErrCode} (v : Word) (hnone : e ≠ .none)
    (hqueue : e ≠ .emptyQueue) :
    (s.raise e v).complete.Inv :=
  { h with busy := nofun, noError := fun h0 => absurd h0 hnone, noEmptyQueue := hqueue }

/-- NONE and EMPTY_QUEUE are listed for no command. -/
theorem ne_of_mem_mayRaise {i : Instr} {e : ErrCode} (h : e ∈ i.mayRaise) : e ≠ .none ∧ e ≠ .emptyQueue := by
  revert h
  cases i <;> cases e <;> decide

theorem State.Inv.exec {s t : State} (h : s.Inv) {i : Instr} (hexec : exec i s = .next t) : t.Inv := by
  rw [exec_eq_outcome] at hexec
  rcases (h.bodyOf i).outcome hexec with ⟨u, hu, rfl⟩ | ⟨u, e, v, ⟨hu, he⟩, rfl⟩
  · exact hu.succeed
  · obtain ⟨hnone, hqueue⟩ := ne_of_mem_mayRaise he
    exact hu.raise v hnone hqueue

/-- Settles O14: what the body raises is listed, and otherwise the command reports NONE. -/
theorem eachCommandsErrors : Obligations.EachCommandsErrors := by
  unfold Obligations.EachCommandsErrors
  intro i s t hinv hexec
  rw [exec_eq_outcome] at hexec
  rcases (hinv.bodyOf i).outcome hexec with ⟨u, -, rfl⟩ | ⟨u, e, v, ⟨-, he⟩, rfl⟩
  · exact .inl ⟨rfl, rfl⟩
  · exact .inr he

/-! ### The turns -/

theorem locate_inBuf_aligned {off : Word} {i : Nat} (h : locate off = .inBuf i) : i % 4 = 0 := by
  rcases Nat.lt_or_ge (off.toNat / 4 * 4) 0x100 with hlt | hge
  · simp only [locate, if_pos hlt] at h
    split at h <;> cases h
  · simp only [locate, if_neg (Nat.not_lt.2 hge), apply_ite (· = Loc.inBuf i), reduceCtorEq, Loc.inBuf.injEq,
      if_false_left, if_false_right, ite_self] at h
    omega
/-- A HOST write keeps the invariant: no writable register or window leaves its range. -/
theorem State.Inv.memWrite {s : State} (h : s.Inv) (off v : Word) : (s.memWrite off v).Inv := by
  rcases s.memWrite_cases off v with ⟨-, hw⟩ | ⟨-, hw⟩ | ⟨-, hw⟩ | ⟨-, hw⟩ | ⟨-, -, hw⟩ | ⟨b, -, -, hw⟩ |
    ⟨i, -, hi, hw⟩ | ⟨-, -, -, -, hw⟩ <;> rw [hw]
  · refine { h with busy := fun hbusy => ?_ }
    obtain ⟨hdone, herr⟩ := h.busy hbusy
    exact ⟨by rw [State.acknowledge, hdone, Bool.false_and], herr⟩
  · exact { h with }
  · rcases Bool.eq_false_or_eq_true s.busy with hb | hb
    · rw [State.issue_busy (State.busy_iff.1 hb)]
      exact { h with }
    · rw [State.issue_idle (State.busy_eq_false.1 hb)]
      exact { h with busy := fun _ => ⟨rfl, rfl⟩, noError := fun _ => rfl, noEmptyQueue := nofun }
  · exact { h with }
  · exact { h with inLen := (toNat_word_le _).trans (Nat.min_le_right ..) }
  · exact h.freq_of_invAll h.symCount h.total
  · obtain ⟨⟨hcap, -⟩, -⟩ := Params.wf_iff.1 h.params
    obtain ⟨hwf, hwithin⟩ := h.inBuf
    exact { h with
      inBuf := ⟨Memory.wf_writeWord hwf _ _ _, Memory.within_writeWord hwithin hcap (locate_inBuf_aligned hi) v⟩ }
  · exact h

theorem State.Inv.hostTurn {s : State} (h : s.Inv) : s.hostTurn.Inv := by
  rcases s.hostTurn_cases with hs | ⟨off, v, ops, -, hs⟩ | ⟨d, ops, x, hs⟩ <;> rw [hs]
  · exact h
  · exact State.Inv.memWrite (s := { s with prog := ops }) { h with } off v
  · exact { h with }

theorem State.Inv.coreTurn {s t : State} (h : s.Inv) (ht : s.coreTurn = .next t) : t.Inv := by
  rcases coreTurn_cases s with ⟨-, hc⟩ | ⟨i, -, -, hc⟩ | ⟨e, -, -, hc⟩ <;> rw [hc] at ht
  · obtain rfl := Host.Outcome.next.inj ht
    exact h
  · exact h.exec ht
  · obtain rfl := Host.Outcome.next.inj ht
    exact h.raise _ nofun nofun

/-- Settles O18: whichever agent has the turn. -/
theorem stepKeepsInvariant : Obligations.StepKeepsInvariant := by
  unfold Obligations.StepKeepsInvariant
  intro s t hinv hstep
  obtain ⟨ts, -, h⟩ := step_cases s
  have hturn : State.Inv { s with sched := ts } := { hinv with }
  rcases h with h | h | ⟨-, h⟩ <;> rw [h] at hstep
  · exact Host.Outcome.next.inj hstep ▸ hturn.hostTurn
  · exact hturn.coreTurn hstep
  · exact Host.Outcome.next.inj hstep ▸ hturn.resetEvent

end Sys2Proof.Machine
end

section
/-! PROOFS. A pending command completes (70_reset R366): from a state that meets the invariant a CORE turn answers a
next state, and the HOST's turns before it leave the command pending. -/

namespace Sys2Proof.Machine

theorem Effect.Ensures.exists_next {e : Effect} {P : State → Prop} {Q : State → ErrCode → Word → Prop}
    (he : e.Ensures False P Q) : ∃ t, e.outcome = .next t := by
  cases e with
  | done t => exact ⟨_, rfl⟩
  | raised t er v => exact ⟨_, rfl⟩
  | fault f => exact he.elim

/-- A CORE turn while BUSY completes: no body faults. -/
theorem State.Inv.coreTurn_completes {s : State} (h : s.Inv) (hbusy : s.phase = .busy) :
    ∃ t, s.coreTurn = .next t ∧ t.phase = .idle ∧ t.done = true := by
  suffices hnext : ∃ t, s.coreTurn = .next t by
    obtain ⟨t, ht⟩ := hnext
    exact ⟨t, ht, coreTurn_done ht hbusy⟩
  rcases coreTurn_cases s with ⟨hidle, -⟩ | ⟨i, -, -, hc⟩ | ⟨e, -, -, hc⟩
  · exact absurd (hidle.symm.trans hbusy) nofun
  · rw [hc, exec_eq_outcome]
    exact (h.bodyOf i).exists_next
  · exact ⟨_, hc⟩

theorem run_of_step {s t : State} (h : step s = .next t) (k : Nat) :
    Host.Core.run core (k + 1) s = Host.Core.run core k t := by
  have hstep : core.step s = .next t := h
  simp only [Host.Core.run, hstep]

/-- The run that one CORE turn completes. -/
theorem State.Inv.run_core {s : State} (h : s.Inv) (hbusy : s.phase = .busy) {ts : List Turn}
    (hsched : s.sched = .core :: ts ∨ (s.sched = [] ∧ ts = [])) :
    ∃ t, Host.Core.run core 1 s = .next t ∧ t.phase = .idle ∧ t.done = true := by
  obtain ⟨t, ht, hidle, hdone⟩ := State.Inv.coreTurn_completes (s := { s with sched := ts }) { h with } hbusy
  exact ⟨t, run_of_step ((step_core hbusy hsched).trans ht) 0, hidle, hdone⟩

/-- Over the fixed turns: a HOST turn leaves one turn fewer, a CORE turn and RESET reach IDLE at once. -/
theorem State.Inv.run_completes {s : State} {ts : List Turn} (h : s.Inv) (hbusy : s.phase = .busy) (hs : s.sched = ts) :
    ∃ k t, k ≤ ts.length + 1 ∧ Host.Core.run core k s = .next t ∧ t.phase = .idle ∧
      (.reset ∉ ts → t.done = true) := by
  induction ts generalizing s with
  | nil =>
    obtain ⟨t, hrun, hidle, hdone⟩ := h.run_core hbusy (.inr ⟨hs, rfl⟩)
    exact ⟨1, t, Nat.le_refl 1, hrun, hidle, fun _ => hdone⟩
  | cons turn ts ih =>
    have hstep : step s = { s with sched := ts }.take turn := step_eq (by simp only [State.nextTurn, hs])
    cases turn with
    | host =>
      have hturn : State.Inv { s with sched := ts } := { h with }
      obtain ⟨dn, wd, ie, d, pr, rd, hnext⟩ := hostCannotDisturbPendingCommand { s with sched := ts } hbusy
      have hinv := hturn.hostTurn
      rw [hnext] at hinv
      obtain ⟨k, t, hk, hrun, hidle, hdone⟩ := ih hinv hbusy rfl
      refine ⟨k + 1, t, Nat.succ_le_succ hk, ?_, hidle, fun hr => hdone fun hmem => hr (.tail _ hmem)⟩
      rw [run_of_step (hstep.trans (congrArg _ hnext)), hrun]
    | core =>
      obtain ⟨t, hrun, hidle, hdone⟩ := h.run_core hbusy (.inl hs)
      exact ⟨1, t, Nat.le_add_left .., hrun, hidle, fun _ => hdone⟩
    | reset => exact ⟨1, _, Nat.le_add_left .., run_of_step hstep 0, rfl, fun hr => absurd (.head _) hr⟩

/-- Settles O7: along the fixed turns. -/
theorem pendingCommandCompletes : Obligations.PendingCommandCompletes := by
  unfold Obligations.PendingCommandCompletes
  exact fun s hinv hbusy => hinv.run_completes hbusy rfl

end Sys2Proof.Machine
end

section
/-! PROOFS. The valid bits and the registers tied to them (10_state R47): what each event leaves of them, from the
answers of the commands' bodies. -/

namespace Sys2Proof.Machine

theorem State.validView_issue (s : State) (c : Word) : (s.issue c).validView = s.validView := by
  rcases Bool.eq_false_or_eq_true s.busy with hb | hb
  · rw [State.issue_busy (State.busy_iff.1 hb)]
    rfl
  · rw [State.issue_idle (State.busy_eq_false.1 hb)]
    rfl

theorem State.validView_memWrite_freq {s : State} {off : Word} {b : Byte} (hidle : s.phase = .idle)
    (hfreq : locate off = .freq b) (v : Word) : (s.memWrite off v).validView = invAllView := by
  have hw : s.memWrite off v = s.writeFreq b v := by
    simp only [State.memWrite, hfreq, State.busy_eq_false.2 hidle, Bool.false_eq_true, if_false, State.acceptWrite]
  rw [hw]
  rfl

/-- Of the HOST's writes only one to FREQ while IDLE touches the valid bits. -/
theorem State.validView_memWrite_other {s : State} {off : Word} (v : Word)
    (h : ∀ b, s.phase = .idle → locate off ≠ .freq b) : (s.memWrite off v).validView = s.validView := by
  rcases s.memWrite_cases off v with ⟨-, hw⟩ | ⟨-, hw⟩ | ⟨-, hw⟩ | ⟨-, hw⟩ | ⟨-, -, hw⟩ | ⟨b, hidle, hfreq, hw⟩ |
    ⟨i, -, -, hw⟩ | ⟨-, -, -, -, hw⟩ <;> rw [hw]
  case inr.inr.inl => exact s.validView_issue v
  case inr.inr.inr.inr.inr.inl => exact absurd hfreq (h b hidle)
  all_goals rfl

/-! ### The single commands -/

theorem buildTree_validity {s t : State} (h : exec .buildTree s = .next t) :
    t.codesValid = false ∧ t.maxCodeLen = 0#32 ∧ t.payloadValid = s.payloadValid ∧ t.payLen = s.payLen ∧
      t.pad = s.pad ∧ t.bitLen = s.bitLen ∧
      (t.err = .none → t.treeValid = true) ∧ (t.err ≠ .none → t.treeValid = false ∧ t.treeRoot = 0) := by
  rw [exec, execBuildTree] at h
  rcases buildTree_cases s.freq with ⟨b, hb⟩ | ⟨hb, -⟩ | ⟨x, hb, -⟩
  · rw [buildTreeBody_ok hb] at h
    obtain rfl := Host.Outcome.next.inj h
    exact ⟨rfl, rfl, rfl, rfl, rfl, rfl, fun _ => rfl, fun herr => absurd rfl herr⟩
  all_goals
    rw [buildTreeBody_error hb] at h
    obtain rfl := Host.Outcome.next.inj h
    exact ⟨rfl, rfl, rfl, rfl, rfl, rfl, nofun, fun _ => ⟨rfl, rfl⟩⟩

theorem genCodes_validity {s t : State} (h : exec .genCodes s = .next t) :
    (t.err = .none → t.codesValid = true) ∧ (t.err ≠ .none → t.validView = s.validView) ∧
      t.treeValid = s.treeValid ∧ t.treeRoot = s.treeRoot ∧ t.payloadValid = s.payloadValid ∧
      t.payLen = s.payLen ∧ t.pad = s.pad ∧ t.bitLen = s.bitLen := by
  rw [exec, execGenCodes] at h
  rcases genCodesBody_cases s with ⟨-, hbody⟩ | ⟨f, -, -, hbody⟩ | ⟨c, -, -, hbody⟩ <;> rw [hbody] at h
  · obtain rfl := Host.Outcome.next.inj h
    exact ⟨nofun, fun _ => rfl, rfl, rfl, rfl, rfl, rfl, rfl⟩
  · cases h
  · obtain rfl := Host.Outcome.next.inj h
    exact ⟨fun _ => rfl, fun herr => absurd rfl herr, rfl, rfl, rfl, rfl, rfl, rfl⟩

theorem pack_validity {s t : State} (h : exec .pack s = .next t) :
    t.treeValid = s.treeValid ∧ t.codesValid = s.codesValid ∧ t.treeRoot = s.treeRoot ∧
      t.maxCodeLen = s.maxCodeLen ∧ (t.err = .none → t.payloadValid = true) ∧
      (t.err = .sequence → t.validView = s.validView) ∧
      (t.err ≠ .none → t.err ≠ .sequence →
        t.payloadValid = false ∧ t.payLen = 0#32 ∧ t.pad = 0#32 ∧ t.bitLen = 0#32) := by
  rw [exec, execPack] at h
  rcases packBody_cases s with ⟨-, hbody⟩ | ⟨i, -, -, hbody⟩ | ⟨bits, -, -, -, hbody⟩ | ⟨bits, -, -, -, hbody⟩ <;>
    rw [hbody] at h <;> obtain rfl := Host.Outcome.next.inj h
  · exact ⟨rfl, rfl, rfl, rfl, nofun, fun _ => rfl, fun _ hseq => absurd rfl hseq⟩
  · exact ⟨rfl, rfl, rfl, rfl, nofun, nofun, fun _ _ => ⟨rfl, rfl, rfl, rfl⟩⟩
  · exact ⟨rfl, rfl, rfl, rfl, nofun, nofun, fun _ _ => ⟨rfl, rfl, rfl, rfl⟩⟩
  · exact ⟨rfl, rfl, rfl, rfl, fun _ => rfl, nofun, fun herr => absurd rfl herr⟩

theorem parse_validity {s t : State} (h : exec .parse s = .next t) :
    t.treeValid = false ∧ t.codesValid = false ∧ t.treeRoot = 0 ∧ t.maxCodeLen = 0#32 ∧
      (t.err = .none → t.payloadValid = true) ∧ (t.err ≠ .none → t.validView = invAllView) := by
  rw [exec, execParse] at h
  rcases parseBody_cases s with ⟨o, -, hbody⟩ | ⟨r, -, -, hbody⟩ | ⟨r, -, -, hbody⟩ <;>
    rw [hbody] at h <;> obtain rfl := Host.Outcome.next.inj h
  · exact ⟨rfl, rfl, rfl, rfl, nofun, fun _ => rfl⟩
  · exact ⟨rfl, rfl, rfl, rfl, nofun, fun _ => rfl⟩
  · exact ⟨rfl, rfl, rfl, rfl, fun _ => rfl, fun herr => absurd rfl herr⟩

theorem walk_validity {s t : State} (h : exec .walk s = .next t) : t.validView = s.validView := by
  rw [exec, execWalk] at h
  rcases walkBody_cases s with ⟨-, hbody⟩ | ⟨e, v, -, -, -, hbody⟩ | ⟨out, -, -, -, hbody⟩ <;>
    rw [hbody] at h <;> obtain rfl := Host.Outcome.next.inj h <;> rfl

/-! ### ENCODE and DECODE -/

/-- SERIALIZE of a valid payload leaves the valid bits and ends or reports CAPACITY. -/
theorem serializeBody_validity {s t : State} (hv : s.payloadValid = true) (h : (serializeBody s).outcome = .next t) :
    t.validView = s.validView ∧ (t.err = .none ∨ t.err = .capacity) := by
  rcases Nat.lt_or_ge s.params.outCap s.blob.length with hover | hfits
  · rw [serializeBody_overflows hv hover] at h
    generalize s.blob = B at h
    obtain rfl := Host.Outcome.next.inj h
    exact ⟨rfl, .inr rfl⟩
  · rw [serializeBody_fits hv hfits] at h
    generalize s.blob = B at h
    obtain rfl := Host.Outcome.next.inj h
    exact ⟨rfl, .inl rfl⟩

/-- WALK with its valid bits leaves them and ends or reports one of its errors. -/
theorem walkBody_validity {s t : State} (ht : s.treeValid = true) (hp : s.payloadValid = true)
    (h : (walkBody s).outcome = .next t) :
    t.validView = s.validView ∧ t.symCount = s.symCount ∧
      (t.err = .none ∨ t.err = .truncatedStream ∨ t.err = .capacity) := by
  have hanswers := walkBits_answers s.node s.treeRoot (unpackBits s.packed s.pad.toNat) s.params.outCap
  cases hw : walkBits s.node s.treeRoot (unpackBits s.packed s.pad.toNat) s.params.outCap with
  | error ev =>
    obtain ⟨e, v⟩ := ev
    rw [hw] at hanswers
    rw [walkBody_error ht hp hw] at h
    obtain rfl := Host.Outcome.next.inj h
    exact ⟨rfl, rfl, .inr hanswers⟩
  | ok out =>
    rw [walkBody_ok ht hp hw] at h
    obtain rfl := Host.Outcome.next.inj h
    exact ⟨rfl, rfl, .inl rfl⟩

theorem serialize_validity {s t : State} (h : exec .serialize s = .next t) : t.validView = s.validView := by
  rcases Bool.eq_false_or_eq_true s.payloadValid with hv | hv
  · exact (serializeBody_validity hv h).1
  · rw [exec, execSerialize, serializeBody, if_pos hv] at h
    obtain rfl := Host.Outcome.next.inj h
    rfl

theorem encode_validity_empty {s t : State} (hempty : s.inLen = 0#32) (h : exec .encode s = .next t) :
    t.validView = ((false, false, true), (0, 0#32, 0#32, 0#32, 0#32)) := by
  rw [exec, execEncode, encodeBody_empty hempty] at h
  exact (serializeBody_validity rfl h).1

theorem encode_validity {s t : State} (hne : s.inLen ≠ 0#32) (h : exec .encode s = .next t) :
    (t.err = .none → t.treeValid = true ∧ t.codesValid = true ∧ t.payloadValid = true) ∧
      (t.err = .capacity → t.treeValid = true ∧ t.codesValid = true ∧
        (t.payloadValid = false → t.payLen = 0#32 ∧ t.pad = 0#32 ∧ t.bitLen = 0#32)) ∧
      (t.err = .malformedHeader → t.validView = invAllView) := by
  rw [exec, execEncode] at h
  rcases buildTree_cases (countSymbols s.input) with ⟨b, hb⟩ | ⟨hb, -⟩ | ⟨x, hb, -⟩
  · obtain ⟨c, hc⟩ := genCodes_of_buildTree hb
    have hbits := encodeBits_countSymbols s.length_input_lt hb hc
    rw [encodeBody_planned hne hb hc] at h
    generalize countSymbols s.input = F at h
    rcases Nat.lt_or_ge s.params.payCap (packedLen (s.input.flatMap c.code)) with hover | hfits
    · rw [packBody_overflows (s := s.planned F b c) rfl hbits hover] at h
      obtain rfl := Host.Outcome.next.inj h
      exact ⟨nofun, fun _ => ⟨rfl, rfl, fun _ => ⟨rfl, rfl, rfl⟩⟩, nofun⟩
    · rw [packBody_fits (s := s.planned F b c) rfl hbits hfits] at h
      obtain ⟨hview, herr⟩ := serializeBody_validity rfl h
      obtain ⟨⟨htree, hcodes, hpay⟩, -⟩ : (_ ∧ _ ∧ _) ∧ _ := by simpa only [State.validView, Prod.mk.injEq] using hview
      refine ⟨fun _ => ⟨htree, hcodes, hpay⟩, fun _ => ⟨htree, hcodes, fun hp => absurd (hpay.symm.trans hp) nofun⟩,
        fun hmal => ?_⟩
      rcases herr with h0 | h0 <;> exact absurd (h0.symm.trans hmal) nofun
  all_goals
    rw [encodeBody_nonempty hne, buildTreeBody_error (s := s.analyzed) hb] at h
    obtain rfl := Host.Outcome.next.inj h
  · exact ⟨nofun, nofun, nofun⟩
  · exact ⟨nofun, nofun, fun _ => rfl⟩

/-- SYM_COUNT of a built tree is not 0. -/
theorem word_count_ne_zero {F : Table Word} {b : Built} (hb : buildTree F = .ok b) : word b.count ≠ 0#32 := by
  obtain ⟨-, hne, -⟩ := buildTree_ok_iff.1 hb
  have hle := length_present_le F
  rw [Ne, (builtTreeHasItsShape F b hb).count, word_eq_zero (by omega), List.length_eq_zero_iff]
  exact hne

theorem decode_validity {s t : State} (h : exec .decode s = .next t) :
    t.codesValid = false ∧ t.maxCodeLen = 0#32 ∧ (t.treeValid = false → t.treeRoot = 0) ∧
      (t.err = .none → t.payloadValid = true ∧ (t.treeValid = true ↔ t.symCount ≠ 0#32)) ∧
      (t.err = .truncatedStream → t.treeValid = true ∧ t.payloadValid = true) ∧
      (t.err = .malformedHeader → t.validView = invAllView) ∧
      (t.err = .capacity → t.validView = invAllView ∨ (t.treeValid = true ∧ t.payloadValid = true)) := by
  rw [exec, execDecode] at h
  cases hr : parseBlob s.input with
  | error o =>
    rw [decodeBody_of_parse_raised (parseBody_malformed hr)] at h
    obtain rfl := Host.Outcome.next.inj h
    exact ⟨rfl, rfl, fun _ => rfl, nofun, nofun, fun _ => rfl, nofun⟩
  | ok r =>
    rcases Nat.lt_or_ge s.params.payCap r.payload.length with hover | hfits
    · rw [decodeBody_of_parse_raised (parseBody_overflows hr hover)] at h
      obtain rfl := Host.Outcome.next.inj h
      exact ⟨rfl, rfl, fun _ => rfl, nofun, nofun, nofun, fun _ => .inl rfl⟩
    by_cases hcount : r.count = 0
    · rw [decodeBody_empty hr hfits hcount] at h
      obtain rfl := Host.Outcome.next.inj h
      exact ⟨rfl, rfl, fun _ => rfl, fun _ => ⟨rfl, nofun, fun hne => absurd (congrArg word hcount) hne⟩, nofun, nofun,
        nofun⟩
    · obtain ⟨b, hb⟩ := buildTree_of_parseBlob hr hcount
      rw [decodeBody_walk hr hfits hcount hb] at h
      obtain ⟨hview, hsym, herr⟩ := walkBody_validity rfl rfl h
      obtain ⟨⟨htree, hcodes, hpay⟩, -, hmax, -⟩ : (_ ∧ _ ∧ _) ∧ _ ∧ _ ∧ _ := by
        simpa only [State.validView, Prod.mk.injEq] using hview
      have hne : t.symCount ≠ 0#32 := by
        rw [hsym]
        exact word_count_ne_zero hb
      refine ⟨hcodes, hmax, fun h0 => absurd (htree.symm.trans h0) nofun, fun _ => ⟨hpay, fun _ => hne, fun _ => htree⟩,
        fun _ => ⟨htree, hpay⟩, fun hmal => ?_, fun _ => .inr ⟨htree, hpay⟩⟩
      rcases herr with h0 | h0 | h0 <;> exact absurd (h0.symm.trans hmal) nofun

/-- Settles O16: event by event. -/
theorem validBitsFollowTheTable : Obligations.ValidBitsFollowTheTable := by
  unfold Obligations.ValidBitsFollowTheTable
  refine ⟨fun _ => rfl, fun s off v => ?_, fun s t h => ?_, fun s t h => ?_, fun _ _ => buildTree_validity,
    fun _ _ => genCodes_validity, fun _ _ => pack_validity, fun _ _ => parse_validity, fun s t h => ?_,
    fun _ _ h => ⟨fun hempty => encode_validity_empty hempty h, fun hne => encode_validity hne h⟩,
    fun _ _ => decode_validity, fun s t h => ?_⟩
  · split
    case h_1 b hidle hfreq => exact State.validView_memWrite_freq hidle hfreq v
    case h_2 hother => exact State.validView_memWrite_other v hother
  · obtain rfl := Host.Outcome.next.inj h
    rfl
  · obtain rfl := Host.Outcome.next.inj h
    rfl
  · rcases h with h | h | h
    · exact serialize_validity h
    · exact walk_validity h
    · obtain rfl := Host.Outcome.next.inj h
      rfl
  · obtain rfl := Host.Outcome.next.inj h
    rfl

end Sys2Proof.Machine
end
